-- ==== Sys2Proof/Word.lean ====
section
/-! DEFINITION. The widths of the machine: 8-bit memory cells and instruction bytes, 16-bit registers and
instruction fields (00_scope.md R8). -/

namespace Sys2Proof

/-- A memory cell or an instruction byte (R8). -/
abbrev Byte := BitVec 8

/-- A general register, an immediate, an offset or an address field (R8, R21). -/
abbrev Word := BitVec 16

end Sys2Proof
end

