-- ==== Sys2Proof/Syntax.lean ====
section
/-! DEFINITION. The instructions: one constructor of `Instr` per row of spec/opcode_table.json, its operands the
decoded ones of 30_encoding.md R70. Reserved bytes are no operands (R71). Every operand is held in a type that has
exactly the values its field can hold, so every term of `Instr` is a well-formed instruction. -/

namespace Sys2Proof

/-- The general registers; a two-bit field numbers them 0 = A, 1 = B, 2 = C, 3 = D (R21, R66). -/
inductive Reg where
  | a
  | b
  | c
  | d
  deriving DecidableEq, Repr

/-- The categories of the opcode table (R73). -/
inductive Category where
  | nop
  | dataMove
  | arithmetic
  | stack
  | memory
  | jump
  | unit
  | special
  deriving DecidableEq, Repr

/-- The instruction formats of R62. -/
inductive Format where
  | f1
  | f3r
  | f3i
  | f3x
  | f4a
  | f4u
  | f4v
  | f5i
  | f5n
  | f5d
  | f5m
  | f5e
  | f5a
  deriving DecidableEq, Repr

/-- `ABS_ADDR_AT` (R67): the byte of an absolute form at which its address starts. -/
inductive AbsAddrAt where
  /-- Address in bytes 1 and 2, byte 3 reserved: the default. -/
  | byte1
  /-- Address in bytes 2 and 3, byte 1 reserved. -/
  | byte2
  deriving DecidableEq, Repr

/-- The mnemonics of the opcode table (R73): what a row of an `OPCODE_MAP` names. Each is the name of a constructor of
`Instr`. -/
inductive Mnemonic where
  | nop | movAB | movAC | movAD | movBA | movBC | movBD | movCA | movCB | movCD | movDA | movDB | movDC
  | xchgAB | movASp | movSpA | incA | incB | incC | incD | decA | decB | decC | decD | addAB | subAB | cmpAB
  | andAB | orAB | xorAB | notA | pushA | pushB | pushC | pushD | popA | popB | popC | popD | ret | loadA
  | storeA | loadAByte | storeAByte | loadInd | storeInd | loadIndByte | storeIndByte | loadReg | storeReg
  | loadRegByte | storeRegByte | movAImm | movBImm | movCImm | movDImm | addAImm | subAImm | andAImm | orAImm
  | xorAImm | cmpAImm | jmp | jz | jnz | jc | jnc | jg | jge | jl | jle | jul | juge | call | loadAbs
  | storeAbs | loadAbsByte | storeAbsByte | unitMemRead | unitMemWrite | unitMemWriteDyn | jmpAbs | callAbs
  | mulAB | divAB | shl | shr | loadImm | loadImmB | scan | scanm | energy | assemble
  deriving DecidableEq, Repr

/-- The instructions (R75 to R78). `off` is `off16`, `imm` is `imm16`, `addr` is `addr16`, `r` the register field,
`sel` the unit selector, `ua` the unit-local address, `sub` and `cmd` the subcommand and command bytes. -/
inductive Instr where
  /-- NOP (0x00, F1), R100. -/
  | nop
  /-- MOV_AB (0x01, F1), R102. -/
  | movAB
  /-- MOV_AC (0x02, F1), R103. -/
  | movAC
  /-- MOV_AD (0x03, F1), R104. -/
  | movAD
  /-- MOV_BA (0x04, F1), R105. -/
  | movBA
  /-- MOV_BC (0x05, F1), R106. -/
  | movBC
  /-- MOV_BD (0x06, F1), R107. -/
  | movBD
  /-- MOV_CA (0x07, F1), R108. -/
  | movCA
  /-- MOV_CB (0x08, F1), R109. -/
  | movCB
  /-- MOV_CD (0x09, F1), R110. -/
  | movCD
  /-- MOV_DA (0x0A, F1), R111. -/
  | movDA
  /-- MOV_DB (0x0B, F1), R112. -/
  | movDB
  /-- MOV_DC (0x0C, F1), R113. -/
  | movDC
  /-- XCHG_AB (0x0D, F1), R114. -/
  | xchgAB
  /-- MOV_A_SP (0x0E, F1), R115. -/
  | movASp
  /-- MOV_SP_A (0x0F, F1), R116. -/
  | movSpA
  /-- INC_A (0x10, F1), R132. -/
  | incA
  /-- INC_B (0x11, F1), R133. -/
  | incB
  /-- INC_C (0x12, F1), R134. -/
  | incC
  /-- INC_D (0x13, F1), R135. -/
  | incD
  /-- DEC_A (0x14, F1), R136. -/
  | decA
  /-- DEC_B (0x15, F1), R137. -/
  | decB
  /-- DEC_C (0x16, F1), R138. -/
  | decC
  /-- DEC_D (0x17, F1), R139. -/
  | decD
  /-- ADD_AB (0x18, F1), R140. -/
  | addAB
  /-- SUB_AB (0x19, F1), R141. -/
  | subAB
  /-- CMP_AB (0x1A, F1), R142. -/
  | cmpAB
  /-- AND_AB (0x1B, F1), R143. -/
  | andAB
  /-- OR_AB (0x1C, F1), R144. -/
  | orAB
  /-- XOR_AB (0x1D, F1), R145. -/
  | xorAB
  /-- NOT_A (0x1E, F1), R146. -/
  | notA
  /-- PUSH_A (0x20, F1), R181. -/
  | pushA
  /-- PUSH_B (0x21, F1), R182. -/
  | pushB
  /-- PUSH_C (0x22, F1), R183. -/
  | pushC
  /-- PUSH_D (0x23, F1), R184. -/
  | pushD
  /-- POP_A (0x24, F1), R185. -/
  | popA
  /-- POP_B (0x25, F1), R186. -/
  | popB
  /-- POP_C (0x26, F1), R187. -/
  | popC
  /-- POP_D (0x27, F1), R188. -/
  | popD
  /-- RET (0x28, F1), R235. -/
  | ret
  /-- LOAD_A (0x40, F3R), R192. -/
  | loadA (off : Word)
  /-- STORE_A (0x41, F3R), R193. -/
  | storeA (off : Word)
  /-- LOAD_A_BYTE (0x42, F3R), R194. -/
  | loadAByte (off : Word)
  /-- STORE_A_BYTE (0x43, F3R), R195. -/
  | storeAByte (off : Word)
  /-- LOAD_IND (0x44, F3R), R197. -/
  | loadInd (off : Word)
  /-- STORE_IND (0x45, F3R), R198. -/
  | storeInd (off : Word)
  /-- LOAD_IND_BYTE (0x46, F3R), R199. -/
  | loadIndByte (off : Word)
  /-- STORE_IND_BYTE (0x47, F3R), R200. -/
  | storeIndByte (off : Word)
  /-- LOAD_REG (0x48, F3X), R202. -/
  | loadReg (r : Reg)
  /-- STORE_REG (0x49, F3X), R203. -/
  | storeReg (r : Reg)
  /-- LOAD_REG_BYTE (0x4A, F3X), R204. -/
  | loadRegByte (r : Reg)
  /-- STORE_REG_BYTE (0x4B, F3X), R205. -/
  | storeRegByte (r : Reg)
  /-- MOV_A_IMM (0x50, F3I), R117. -/
  | movAImm (imm : Word)
  /-- MOV_B_IMM (0x51, F3I), R118. -/
  | movBImm (imm : Word)
  /-- MOV_C_IMM (0x52, F3I), R119. -/
  | movCImm (imm : Word)
  /-- MOV_D_IMM (0x53, F3I), R120. -/
  | movDImm (imm : Word)
  /-- ADD_A_IMM (0x54, F3I), R147. -/
  | addAImm (imm : Word)
  /-- SUB_A_IMM (0x55, F3I), R148. -/
  | subAImm (imm : Word)
  /-- AND_A_IMM (0x56, F3I), R149. -/
  | andAImm (imm : Word)
  /-- OR_A_IMM (0x57, F3I), R150. -/
  | orAImm (imm : Word)
  /-- XOR_A_IMM (0x58, F3I), R151. -/
  | xorAImm (imm : Word)
  /-- CMP_A_IMM (0x59, F3I), R152. -/
  | cmpAImm (imm : Word)
  /-- JMP (0x60, F3R), R221. -/
  | jmp (off : Word)
  /-- JZ (0x61, F3R), R222. -/
  | jz (off : Word)
  /-- JNZ (0x62, F3R), R223. -/
  | jnz (off : Word)
  /-- JC (0x63, F3R), R224. -/
  | jc (off : Word)
  /-- JNC (0x64, F3R), R225. -/
  | jnc (off : Word)
  /-- JG (0x65, F3R), R227. -/
  | jg (off : Word)
  /-- JGE (0x66, F3R), R228. -/
  | jge (off : Word)
  /-- JL (0x67, F3R), R229. -/
  | jl (off : Word)
  /-- JLE (0x68, F3R), R230. -/
  | jle (off : Word)
  /-- JUL (0x69, F3R), R231. -/
  | jul (off : Word)
  /-- JUGE (0x6A, F3R), R232. -/
  | juge (off : Word)
  /-- CALL (0x6B, F3R), R233. -/
  | call (off : Word)
  /-- LOAD_ABS (0x80, F4A), R207. -/
  | loadAbs (addr : Word)
  /-- STORE_ABS (0x81, F4A), R208. -/
  | storeAbs (addr : Word)
  /-- LOAD_ABS_BYTE (0x82, F4A), R209. -/
  | loadAbsByte (addr : Word)
  /-- STORE_ABS_BYTE (0x83, F4A), R210. -/
  | storeAbsByte (addr : Word)
  /-- UNIT_MEM_READ (0x90, F4U), R253. -/
  | unitMemRead (sel : Byte) (ua : Word)
  /-- UNIT_MEM_WRITE (0x91, F4U), R254. -/
  | unitMemWrite (sel : Byte) (ua : Word)
  /-- UNIT_MEM_WRITE_DYN (0x92, F4V), R255. -/
  | unitMemWriteDyn (sel : Byte)
  /-- JMP_ABS (0xB0, F4A), R234. -/
  | jmpAbs (addr : Word)
  /-- CALL_ABS (0xB1, F4A), R236. -/
  | callAbs (addr : Word)
  /-- MUL_AB (0xC0, F5N), R153. -/
  | mulAB
  /-- DIV_AB (0xC1, F5N), R154. -/
  | divAB
  /-- SHL (0xC2, F5N), R155. -/
  | shl
  /-- SHR (0xC3, F5N), R156. -/
  | shr
  /-- LOAD_IMM (0xE0, F5I), R121. -/
  | loadImm (imm : Word)
  /-- LOAD_IMM_B (0xE1, F5I), R122. -/
  | loadImmB (imm : Word)
  /-- SCAN (0xF0, F5D), R271. -/
  | scan (dst : Word)
  /-- SCANM (0xF1, F5M), R272. -/
  | scanm (src dst : Word)
  /-- ENERGY (0xF2, F5E), R273. -/
  | energy (sub : Byte)
  /-- ASSEMBLE (0xF3, F5A), R274. -/
  | assemble (sel cmd : Byte)
  deriving DecidableEq, Repr

end Sys2Proof
end

