-- ==== Sys2Proof/WellFormed.lean ====
section
/-! DEFINITION. What is checked before anything runs. A term of `Instr` needs no check (its operand types hold exactly
the field values of R62 to R71), so the checks are those of a row of the opcode map (R10, R60) and those of a
construction (R331). -/

namespace Sys2Proof

/-- The length in bytes of each format (R62). -/
def Format.len : Format → Nat
  | .f1 => 1
  | .f3r | .f3i | .f3x => 3
  | .f4a | .f4u | .f4v => 4
  | .f5i | .f5n | .f5d | .f5m | .f5e | .f5a => 5

/-- The opcodes that give an instruction `len` bytes, first and last (R60). -/
def opcodeRange (len : Nat) : Option (Nat × Nat) :=
  match len with
  | 1 => some (0x00, 0x3F)
  | 3 => some (0x40, 0x7F)
  | 4 => some (0x80, 0xBF)
  | 5 => some (0xC0, 0xFF)
  | _ => none

/-- A row of an opcode map respects the length law: the opcode lies in the range of its format's length (R10, R60). -/
def rowWellFormed (opcode : Nat) (f : Format) : Bool :=
  match opcodeRange f.len with
  | some (first, last) => decide (first ≤ opcode) && decide (opcode ≤ last)
  | none => false

/-- A memory size an instance can be constructed with (R7, R331). -/
def validSize (n : Int) : Bool :=
  decide (1 ≤ n) && decide (n ≤ 65536)

/-- A backing buffer fits the declared size, or none is supplied (R331). -/
def validBuffer (n : Int) (buffer : Option (List Byte)) : Bool :=
  match buffer with
  | none => true
  | some bytes => decide ((bytes.length : Int) = n)

end Sys2Proof
end

