-- ==== Sys2Proof/Decode.lean ====
section
/-! DEFINITION. The instruction length law, the opcode map, the decoder and the encoder (30_encoding.md R60 to R79),
with the byte-order and bit-field helpers they use. -/

namespace Sys2Proof

/-- `u16(lo, hi) = lo | (hi << 8)`: two bytes, low byte first (R12, R42, R63). -/
def u16 (lo hi : Byte) : Word := hi ++ lo

/-- `v & 0xFF`. -/
def loByte (v : Word) : Byte := v.extractLsb' 0 8

/-- `(v >> 8) & 0xFF`. -/
def hiByte (v : Word) : Byte := v.extractLsb' 8 8

/-- The length law (R60): `len = [1, 3, 4, 5][op[7:6]]`, for every opcode, assigned or not. -/
def lengthOf (op : Byte) : Nat :=
  if op.toNat ≤ 0x3F then 1
  else if op.toNat ≤ 0x7F then 3
  else if op.toNat ≤ 0xBF then 4
  else 5

/-- The register a two-bit field selects (R65, R66): the low 2 bits of the byte, bits 7:2 ignored. -/
def regOfField (b : Byte) : Reg :=
  match b.toNat % 4 with
  | 0 => .a
  | 1 => .b
  | 2 => .c
  | _ => .d

/-- The number of a register in a field (R66). -/
def Reg.code : Reg → Byte
  | .a => 0
  | .b => 1
  | .c => 2
  | .d => 3

/-- The format of an instruction, with the instruction it makes of the format's operands. -/
inductive Form where
  /-- F1. -/
  | f1 (i : Instr)
  /-- F3R: the offset. -/
  | f3r (mk : Word → Instr)
  /-- F3I: the immediate. -/
  | f3i (mk : Word → Instr)
  /-- F3X: the address register. -/
  | f3x (mk : Reg → Instr)
  /-- F4A: the absolute address. -/
  | f4a (mk : Word → Instr)
  /-- F4U: selector and unit-local address. -/
  | f4u (mk : Byte → Word → Instr)
  /-- F4V: selector. -/
  | f4v (mk : Byte → Instr)
  /-- F5I: the immediate. -/
  | f5i (mk : Word → Instr)
  /-- F5N: no operand. -/
  | f5n (i : Instr)
  /-- F5D: the destination address. -/
  | f5d (mk : Word → Instr)
  /-- F5M: source and destination address. -/
  | f5m (mk : Word → Word → Instr)
  /-- F5E: the subcommand. -/
  | f5e (mk : Byte → Instr)
  /-- F5A: selector and command. -/
  | f5a (mk : Byte → Byte → Instr)

/-- The format alone (R62). -/
def Form.format : Form → Format
  | .f1 _ => .f1
  | .f3r _ => .f3r
  | .f3i _ => .f3i
  | .f3x _ => .f3x
  | .f4a _ => .f4a
  | .f4u _ => .f4u
  | .f4v _ => .f4v
  | .f5i _ => .f5i
  | .f5n _ => .f5n
  | .f5d _ => .f5d
  | .f5m _ => .f5m
  | .f5e _ => .f5e
  | .f5a _ => .f5a

/-- `ins[k]`: byte `k` of the raw snapshot (R14, R34). A byte past the snapshot's end, which no format reads of a
snapshot of its own length, is 0. -/
def insAt (ins : List Byte) (k : Nat) : Byte := ins.getD k 0

/-- The 16-bit field whose low byte is `ins[k]` (R63, R64). -/
def wordAt (ins : List Byte) (k : Nat) : Word := u16 (insAt ins k) (insAt ins (k + 1))

/-- `addr16` of an absolute form: bytes 1 and 2, or bytes 2 and 3 under `ABS_ADDR_AT = 2` (R67). -/
def absAddr (p : AbsAddrAt) (ins : List Byte) : Word :=
  match p with
  | .byte1 => wordAt ins 1
  | .byte2 => wordAt ins 2

/-- The instruction a form makes of the snapshot's operand bytes (R62 to R70); reserved bytes are not read (R71). -/
def Form.build (p : AbsAddrAt) (ins : List Byte) : Form → Instr
  | .f1 i => i
  | .f3r mk => mk (wordAt ins 1)
  | .f3i mk => mk (wordAt ins 1)
  | .f3x mk => mk (regOfField (insAt ins 1))
  | .f4a mk => mk (absAddr p ins)
  | .f4u mk => mk (insAt ins 1) (wordAt ins 2)
  | .f4v mk => mk (insAt ins 1)
  | .f5i mk => mk (wordAt ins 1)
  | .f5n i => i
  | .f5d mk => mk (wordAt ins 1)
  | .f5m mk => mk (wordAt ins 1) (wordAt ins 3)
  | .f5e mk => mk (insAt ins 1)
  | .f5a mk => mk (insAt ins 1) (insAt ins 2)

/-- The format of each mnemonic, with the instruction it makes of its operands (R75 to R78). -/
def Mnemonic.form : Mnemonic → Form
  | .nop => .f1 .nop
  | .movAB => .f1 .movAB
  | .movAC => .f1 .movAC
  | .movAD => .f1 .movAD
  | .movBA => .f1 .movBA
  | .movBC => .f1 .movBC
  | .movBD => .f1 .movBD
  | .movCA => .f1 .movCA
  | .movCB => .f1 .movCB
  | .movCD => .f1 .movCD
  | .movDA => .f1 .movDA
  | .movDB => .f1 .movDB
  | .movDC => .f1 .movDC
  | .xchgAB => .f1 .xchgAB
  | .movASp => .f1 .movASp
  | .movSpA => .f1 .movSpA
  | .incA => .f1 .incA
  | .incB => .f1 .incB
  | .incC => .f1 .incC
  | .incD => .f1 .incD
  | .decA => .f1 .decA
  | .decB => .f1 .decB
  | .decC => .f1 .decC
  | .decD => .f1 .decD
  | .addAB => .f1 .addAB
  | .subAB => .f1 .subAB
  | .cmpAB => .f1 .cmpAB
  | .andAB => .f1 .andAB
  | .orAB => .f1 .orAB
  | .xorAB => .f1 .xorAB
  | .notA => .f1 .notA
  | .pushA => .f1 .pushA
  | .pushB => .f1 .pushB
  | .pushC => .f1 .pushC
  | .pushD => .f1 .pushD
  | .popA => .f1 .popA
  | .popB => .f1 .popB
  | .popC => .f1 .popC
  | .popD => .f1 .popD
  | .ret => .f1 .ret
  | .loadA => .f3r .loadA
  | .storeA => .f3r .storeA
  | .loadAByte => .f3r .loadAByte
  | .storeAByte => .f3r .storeAByte
  | .loadInd => .f3r .loadInd
  | .storeInd => .f3r .storeInd
  | .loadIndByte => .f3r .loadIndByte
  | .storeIndByte => .f3r .storeIndByte
  | .loadReg => .f3x .loadReg
  | .storeReg => .f3x .storeReg
  | .loadRegByte => .f3x .loadRegByte
  | .storeRegByte => .f3x .storeRegByte
  | .movAImm => .f3i .movAImm
  | .movBImm => .f3i .movBImm
  | .movCImm => .f3i .movCImm
  | .movDImm => .f3i .movDImm
  | .addAImm => .f3i .addAImm
  | .subAImm => .f3i .subAImm
  | .andAImm => .f3i .andAImm
  | .orAImm => .f3i .orAImm
  | .xorAImm => .f3i .xorAImm
  | .cmpAImm => .f3i .cmpAImm
  | .jmp => .f3r .jmp
  | .jz => .f3r .jz
  | .jnz => .f3r .jnz
  | .jc => .f3r .jc
  | .jnc => .f3r .jnc
  | .jg => .f3r .jg
  | .jge => .f3r .jge
  | .jl => .f3r .jl
  | .jle => .f3r .jle
  | .jul => .f3r .jul
  | .juge => .f3r .juge
  | .call => .f3r .call
  | .loadAbs => .f4a .loadAbs
  | .storeAbs => .f4a .storeAbs
  | .loadAbsByte => .f4a .loadAbsByte
  | .storeAbsByte => .f4a .storeAbsByte
  | .unitMemRead => .f4u .unitMemRead
  | .unitMemWrite => .f4u .unitMemWrite
  | .unitMemWriteDyn => .f4v .unitMemWriteDyn
  | .jmpAbs => .f4a .jmpAbs
  | .callAbs => .f4a .callAbs
  | .mulAB => .f5n .mulAB
  | .divAB => .f5n .divAB
  | .shl => .f5n .shl
  | .shr => .f5n .shr
  | .loadImm => .f5i .loadImm
  | .loadImmB => .f5i .loadImmB
  | .scan => .f5d .scan
  | .scanm => .f5m .scanm
  | .energy => .f5e .energy
  | .assemble => .f5a .assemble

/-- The mnemonic of an instruction: the instruction without its operands. -/
def Instr.mnemonic : Instr → Mnemonic
  | .nop => .nop
  | .movAB => .movAB
  | .movAC => .movAC
  | .movAD => .movAD
  | .movBA => .movBA
  | .movBC => .movBC
  | .movBD => .movBD
  | .movCA => .movCA
  | .movCB => .movCB
  | .movCD => .movCD
  | .movDA => .movDA
  | .movDB => .movDB
  | .movDC => .movDC
  | .xchgAB => .xchgAB
  | .movASp => .movASp
  | .movSpA => .movSpA
  | .incA => .incA
  | .incB => .incB
  | .incC => .incC
  | .incD => .incD
  | .decA => .decA
  | .decB => .decB
  | .decC => .decC
  | .decD => .decD
  | .addAB => .addAB
  | .subAB => .subAB
  | .cmpAB => .cmpAB
  | .andAB => .andAB
  | .orAB => .orAB
  | .xorAB => .xorAB
  | .notA => .notA
  | .pushA => .pushA
  | .pushB => .pushB
  | .pushC => .pushC
  | .pushD => .pushD
  | .popA => .popA
  | .popB => .popB
  | .popC => .popC
  | .popD => .popD
  | .ret => .ret
  | .loadA _ => .loadA
  | .storeA _ => .storeA
  | .loadAByte _ => .loadAByte
  | .storeAByte _ => .storeAByte
  | .loadInd _ => .loadInd
  | .storeInd _ => .storeInd
  | .loadIndByte _ => .loadIndByte
  | .storeIndByte _ => .storeIndByte
  | .loadReg _ => .loadReg
  | .storeReg _ => .storeReg
  | .loadRegByte _ => .loadRegByte
  | .storeRegByte _ => .storeRegByte
  | .movAImm _ => .movAImm
  | .movBImm _ => .movBImm
  | .movCImm _ => .movCImm
  | .movDImm _ => .movDImm
  | .addAImm _ => .addAImm
  | .subAImm _ => .subAImm
  | .andAImm _ => .andAImm
  | .orAImm _ => .orAImm
  | .xorAImm _ => .xorAImm
  | .cmpAImm _ => .cmpAImm
  | .jmp _ => .jmp
  | .jz _ => .jz
  | .jnz _ => .jnz
  | .jc _ => .jc
  | .jnc _ => .jnc
  | .jg _ => .jg
  | .jge _ => .jge
  | .jl _ => .jl
  | .jle _ => .jle
  | .jul _ => .jul
  | .juge _ => .juge
  | .call _ => .call
  | .loadAbs _ => .loadAbs
  | .storeAbs _ => .storeAbs
  | .loadAbsByte _ => .loadAbsByte
  | .storeAbsByte _ => .storeAbsByte
  | .unitMemRead _ _ => .unitMemRead
  | .unitMemWrite _ _ => .unitMemWrite
  | .unitMemWriteDyn _ => .unitMemWriteDyn
  | .jmpAbs _ => .jmpAbs
  | .callAbs _ => .callAbs
  | .mulAB => .mulAB
  | .divAB => .divAB
  | .shl => .shl
  | .shr => .shr
  | .loadImm _ => .loadImm
  | .loadImmB _ => .loadImmB
  | .scan _ => .scan
  | .scanm _ _ => .scanm
  | .energy _ => .energy
  | .assemble _ _ => .assemble

/-! ### The opcode map (R10, R73, R75 to R79) -/

/-- A list of rows is an `OPCODE_MAP`: every opcode respects the length law for its mnemonic's format (R10, R60), and no
opcode has two rows (R73: "a dense, immutable array indexed 0–255"). -/
def validRows (rows : List (Nat × Mnemonic)) : Bool :=
  rows.all (fun row => rowWellFormed row.1 row.2.form.format) && decide (rows.map Prod.fst).Nodup

/-- The parameter `OPCODE_MAP` (R10): the assigned opcodes with their mnemonics. An opcode without a row is undefined
(R72). A mnemonic may have one opcode, several or none (log 3). -/
structure OpcodeMap where
  rows : List (Nat × Mnemonic)
  valid : validRows rows = true
  deriving DecidableEq, Repr

/-- The map has an entry for the opcode (R72). -/
def OpcodeMap.assigns (m : OpcodeMap) (op : Byte) : Bool := m.rows.any fun row => decide (row.1 = op.toNat)

/-- The mnemonic an opcode selects, none where it is undefined (R72, R73). -/
def OpcodeMap.mnemonicOf (m : OpcodeMap) (op : Byte) : Option Mnemonic := m.rows.lookup op.toNat

/-- The first opcode of a mnemonic, none where the map has no entry for it. -/
def OpcodeMap.opcodeOf (m : OpcodeMap) (k : Mnemonic) : Option Byte :=
  (m.rows.find? fun row => decide (row.2 = k)).map fun row => BitVec.ofNat 8 row.1

/-- The 1-byte opcodes of the default map (R75). -/
def opcodes1 : List (Nat × Mnemonic) :=
  [(0x00, .nop), (0x01, .movAB), (0x02, .movAC), (0x03, .movAD), (0x04, .movBA), (0x05, .movBC), (0x06, .movBD),
   (0x07, .movCA), (0x08, .movCB), (0x09, .movCD), (0x0A, .movDA), (0x0B, .movDB), (0x0C, .movDC),
   (0x0D, .xchgAB), (0x0E, .movASp), (0x0F, .movSpA), (0x10, .incA), (0x11, .incB), (0x12, .incC),
   (0x13, .incD)] ++
  [(0x14, .decA), (0x15, .decB), (0x16, .decC), (0x17, .decD), (0x18, .addAB), (0x19, .subAB), (0x1A, .cmpAB),
   (0x1B, .andAB), (0x1C, .orAB), (0x1D, .xorAB), (0x1E, .notA), (0x20, .pushA), (0x21, .pushB), (0x22, .pushC),
   (0x23, .pushD), (0x24, .popA), (0x25, .popB), (0x26, .popC), (0x27, .popD), (0x28, .ret)]

/-- The 3-byte opcodes of the default map (R76). -/
def opcodes3 : List (Nat × Mnemonic) :=
  [(0x40, .loadA), (0x41, .storeA), (0x42, .loadAByte), (0x43, .storeAByte), (0x44, .loadInd),
   (0x45, .storeInd), (0x46, .loadIndByte), (0x47, .storeIndByte), (0x48, .loadReg), (0x49, .storeReg),
   (0x4A, .loadRegByte), (0x4B, .storeRegByte), (0x50, .movAImm), (0x51, .movBImm), (0x52, .movCImm),
   (0x53, .movDImm), (0x54, .addAImm), (0x55, .subAImm), (0x56, .andAImm), (0x57, .orAImm)] ++
  [(0x58, .xorAImm), (0x59, .cmpAImm), (0x60, .jmp), (0x61, .jz), (0x62, .jnz), (0x63, .jc), (0x64, .jnc),
   (0x65, .jg), (0x66, .jge), (0x67, .jl), (0x68, .jle), (0x69, .jul), (0x6A, .juge), (0x6B, .call)]

/-- The 4-byte opcodes of the default map (R77). -/
def opcodes4 : List (Nat × Mnemonic) :=
  [(0x80, .loadAbs), (0x81, .storeAbs), (0x82, .loadAbsByte), (0x83, .storeAbsByte), (0x90, .unitMemRead),
   (0x91, .unitMemWrite), (0x92, .unitMemWriteDyn), (0xB0, .jmpAbs), (0xB1, .callAbs)]

/-- The 5-byte opcodes of the default map (R78). -/
def opcodes5 : List (Nat × Mnemonic) :=
  [(0xC0, .mulAB), (0xC1, .divAB), (0xC2, .shl), (0xC3, .shr), (0xE0, .loadImm), (0xE1, .loadImmB),
   (0xF0, .scan), (0xF1, .scanm), (0xF2, .energy), (0xF3, .assemble)]

/-- The rows of the default map (R75 to R78). -/
def defaultRows : List (Nat × Mnemonic) := opcodes1 ++ (opcodes3 ++ (opcodes4 ++ opcodes5))

/-- The default `OPCODE_MAP` (R10): 93 assigned opcodes; every other one is undefined (R79). -/
def OpcodeMap.default : OpcodeMap := ⟨defaultRows, by decide⟩

/-- The instruction in a raw snapshot `ins[0..len-1]`; none where the opcode is undefined (R72). -/
def decodeIns (m : OpcodeMap) (p : AbsAddrAt) (ins : List Byte) : Option Instr :=
  (m.mnemonicOf (insAt ins 0)).map fun k => k.form.build p ins

/-- Why a string of bytes is no instruction. -/
inductive Reject where
  /-- There is no byte at all. -/
  | empty
  /-- The string ends before the length its opcode gives (R60). A fetch never meets this: memory wraps (R61). -/
  | truncated (opcode : Byte)
  /-- The opcode has no entry in the map (R72). -/
  | undefinedOpcode (opcode : Byte)
  deriving DecidableEq, Repr

/-- The decoder over a string of bytes: the instruction at its head and the bytes after it, or the reason there is
none. The length comes from the first byte alone (R60). -/
def decode (m : OpcodeMap) (p : AbsAddrAt) : List Byte → Except Reject (Instr × List Byte)
  | [] => .error .empty
  | op :: rest =>
    if rest.length + 1 < lengthOf op then .error (.truncated op)
    else match decodeIns m p ((op :: rest).take (lengthOf op)) with
      | none => .error (.undefinedOpcode op)
      | some i => .ok (i, (op :: rest).drop (lengthOf op))

/-- The category of each instruction (R73, R75 to R78). -/
def Instr.category : Instr → Category
  | .nop => .nop
  | .movAB | .movAC | .movAD | .movBA | .movBC | .movBD
  | .movCA | .movCB | .movCD | .movDA | .movDB | .movDC
  | .xchgAB | .movASp | .movSpA | .movAImm _ | .movBImm _ | .movCImm _
  | .movDImm _ | .loadImm _ | .loadImmB _ => .dataMove
  | .incA | .incB | .incC | .incD | .decA | .decB
  | .decC | .decD | .addAB | .subAB | .cmpAB | .andAB
  | .orAB | .xorAB | .notA | .addAImm _ | .subAImm _ | .andAImm _
  | .orAImm _ | .xorAImm _ | .cmpAImm _ | .mulAB | .divAB | .shl
  | .shr => .arithmetic
  | .pushA | .pushB | .pushC | .pushD | .popA | .popB
  | .popC | .popD => .stack
  | .loadA _ | .storeA _ | .loadAByte _ | .storeAByte _ | .loadInd _ | .storeInd _
  | .loadIndByte _ | .storeIndByte _ | .loadReg _ | .storeReg _ | .loadRegByte _ | .storeRegByte _
  | .loadAbs _ | .storeAbs _ | .loadAbsByte _ | .storeAbsByte _ => .memory
  | .ret | .jmp _ | .jz _ | .jnz _ | .jc _ | .jnc _
  | .jg _ | .jge _ | .jl _ | .jle _ | .jul _ | .juge _
  | .call _ | .jmpAbs _ | .callAbs _ => .jump
  | .unitMemRead _ _ | .unitMemWrite _ _ | .unitMemWriteDyn _ => .unit
  | .scan _ | .scanm _ _ | .energy _ | .assemble _ _ => .special

/-- The two bytes of a 16-bit field, low byte first (R63). -/
def le16 (v : Word) : List Byte := [loByte v, hiByte v]

/-- The four bytes of an absolute form, its reserved byte 0 (R62 F4A, R67, R71). -/
def encAbs (p : AbsAddrAt) (op : Byte) (addr : Word) : List Byte :=
  match p with
  | .byte1 => op :: le16 addr ++ [0]
  | .byte2 => op :: 0 :: le16 addr

/-- The five bytes of an immediate load (R62 F5I) or of SCAN (F5D), the reserved bytes 0. -/
def encWord5 (op : Byte) (v : Word) : List Byte := op :: le16 v ++ [0, 0]

/-- The bytes of an instruction under the default map (R62, R75 to R78), every reserved byte 0 (R71). -/
def encode (p : AbsAddrAt) : Instr → List Byte
  | .nop => [0x00]
  | .movAB => [0x01]
  | .movAC => [0x02]
  | .movAD => [0x03]
  | .movBA => [0x04]
  | .movBC => [0x05]
  | .movBD => [0x06]
  | .movCA => [0x07]
  | .movCB => [0x08]
  | .movCD => [0x09]
  | .movDA => [0x0A]
  | .movDB => [0x0B]
  | .movDC => [0x0C]
  | .xchgAB => [0x0D]
  | .movASp => [0x0E]
  | .movSpA => [0x0F]
  | .incA => [0x10]
  | .incB => [0x11]
  | .incC => [0x12]
  | .incD => [0x13]
  | .decA => [0x14]
  | .decB => [0x15]
  | .decC => [0x16]
  | .decD => [0x17]
  | .addAB => [0x18]
  | .subAB => [0x19]
  | .cmpAB => [0x1A]
  | .andAB => [0x1B]
  | .orAB => [0x1C]
  | .xorAB => [0x1D]
  | .notA => [0x1E]
  | .pushA => [0x20]
  | .pushB => [0x21]
  | .pushC => [0x22]
  | .pushD => [0x23]
  | .popA => [0x24]
  | .popB => [0x25]
  | .popC => [0x26]
  | .popD => [0x27]
  | .ret => [0x28]
  | .loadA off => 0x40 :: le16 off
  | .storeA off => 0x41 :: le16 off
  | .loadAByte off => 0x42 :: le16 off
  | .storeAByte off => 0x43 :: le16 off
  | .loadInd off => 0x44 :: le16 off
  | .storeInd off => 0x45 :: le16 off
  | .loadIndByte off => 0x46 :: le16 off
  | .storeIndByte off => 0x47 :: le16 off
  | .loadReg r => [0x48, r.code, 0]
  | .storeReg r => [0x49, r.code, 0]
  | .loadRegByte r => [0x4A, r.code, 0]
  | .storeRegByte r => [0x4B, r.code, 0]
  | .movAImm imm => 0x50 :: le16 imm
  | .movBImm imm => 0x51 :: le16 imm
  | .movCImm imm => 0x52 :: le16 imm
  | .movDImm imm => 0x53 :: le16 imm
  | .addAImm imm => 0x54 :: le16 imm
  | .subAImm imm => 0x55 :: le16 imm
  | .andAImm imm => 0x56 :: le16 imm
  | .orAImm imm => 0x57 :: le16 imm
  | .xorAImm imm => 0x58 :: le16 imm
  | .cmpAImm imm => 0x59 :: le16 imm
  | .jmp off => 0x60 :: le16 off
  | .jz off => 0x61 :: le16 off
  | .jnz off => 0x62 :: le16 off
  | .jc off => 0x63 :: le16 off
  | .jnc off => 0x64 :: le16 off
  | .jg off => 0x65 :: le16 off
  | .jge off => 0x66 :: le16 off
  | .jl off => 0x67 :: le16 off
  | .jle off => 0x68 :: le16 off
  | .jul off => 0x69 :: le16 off
  | .juge off => 0x6A :: le16 off
  | .call off => 0x6B :: le16 off
  | .loadAbs addr => encAbs p 0x80 addr
  | .storeAbs addr => encAbs p 0x81 addr
  | .loadAbsByte addr => encAbs p 0x82 addr
  | .storeAbsByte addr => encAbs p 0x83 addr
  | .unitMemRead sel ua => 0x90 :: sel :: le16 ua
  | .unitMemWrite sel ua => 0x91 :: sel :: le16 ua
  | .unitMemWriteDyn sel => [0x92, sel, 0, 0]
  | .jmpAbs addr => encAbs p 0xB0 addr
  | .callAbs addr => encAbs p 0xB1 addr
  | .mulAB => [0xC0, 0, 0, 0, 0]
  | .divAB => [0xC1, 0, 0, 0, 0]
  | .shl => [0xC2, 0, 0, 0, 0]
  | .shr => [0xC3, 0, 0, 0, 0]
  | .loadImm imm => encWord5 0xE0 imm
  | .loadImmB imm => encWord5 0xE1 imm
  | .scan dst => encWord5 0xF0 dst
  | .scanm src dst => 0xF1 :: (le16 src ++ le16 dst)
  | .energy sub => [0xF2, sub, 0, 0, 0]
  | .assemble sel cmd => [0xF3, sel, cmd, 0, 0]

/-- The bytes of an instruction under a map: the opcode the map gives its mnemonic, and the operand bytes, which depend on
the format alone (R10, R62); none where the map has no opcode for it. -/
def encodeWith (m : OpcodeMap) (p : AbsAddrAt) (i : Instr) : Option (List Byte) :=
  (m.opcodeOf i.mnemonic).map fun op => op :: (encode p i).tail

/-- The length of an instruction in bytes: that of its encoding (R60, R62). -/
def Instr.len (i : Instr) : Nat := (encode .byte1 i).length

/-- Byte `k` of an instruction whose bits are `w`, of which the table gives `nbits`; every bit above is 0. -/
def tableByte (nbits w k : Nat) : Byte := BitVec.ofNat 8 (w % 2 ^ nbits / 256 ^ k)

/-- The five bytes of that instruction, the first at the lowest address. -/
def tableBytes (nbits w : Nat) : List Byte :=
  [tableByte nbits w 0, tableByte nbits w 1, tableByte nbits w 2, tableByte nbits w 3, tableByte nbits w 4]

/-- The instruction the decoder, under the default parameters, reads from an instruction whose bits are `w`. -/
def decodeTableWord (nbits w : Nat) : Option Instr :=
  match decode OpcodeMap.default .byte1 (tableBytes nbits w) with
  | .ok (i, _) => some i
  | .error _ => none

end Sys2Proof
end

