-- ==== Sys2Proof/Config.lean ====
section
/-! DEFINITION. The named parameters of an instance (00_scope.md R7, R10, R11), fixed at construction. They stand in
`State.params`, so that a statement about every state covers every value of every parameter (log 1, log 2, log 3). -/

namespace Sys2Proof

/-- The memory size `N`, an integer with `1 ≤ N ≤ 65536` (R7). The bounds travel with the number: no instance
exists outside them (R331). -/
structure MemSize where
  val : Nat
  pos : 1 ≤ val
  le : val ≤ 65536
  deriving DecidableEq, Repr

/-- `INDEXED_EA` (43_memory_access.md R196): how B enters the B-indexed address. -/
inductive IndexedEA where
  /-- `PCREL_PLUS_B`: the relative target plus B, the default. -/
  | pcrelPlusB
  /-- `B_PLUS_OFF`: B plus the offset. -/
  | bPlusOff
  deriving DecidableEq, Repr

/-- `SCANM_ZERO_LEN` (46_special.md R272): the length SCANM copies when `C & 0xFF = 0`. -/
inductive ScanmZeroLen where
  /-- 256, the default. -/
  | len256
  /-- 1, the alternative reading. -/
  | len1
  deriving DecidableEq, Repr

/-- `FAIL_CYCLES` (60_exceptions.md R303): the cost of a failed step. -/
inductive FailCycles where
  /-- Every failure costs 1 cycle, the default. -/
  | one
  /-- A failure of a UNIT instruction costs 3, every other failure 1. DEDUCED (log 13), the alternative of R303. -/
  | threeForUnit
  deriving DecidableEq, Repr

/-- `HEX_CASE` (60_exceptions.md R305): the case of the selector's digits in the UnitNotFound message. -/
inductive HexCase where
  /-- `0x0A`, the default. -/
  | upper
  /-- `0x0a`. -/
  | lower
  deriving DecidableEq, Repr

/-- The parameters of one instance (R7, R10, R11). -/
structure Params where
  memSize : MemSize
  opcodeMap : OpcodeMap
  absAddrAt : AbsAddrAt
  indexedEA : IndexedEA
  scanmZeroLen : ScanmZeroLen
  failCycles : FailCycles
  hexCase : HexCase
  deriving DecidableEq, Repr

/-- The default of every parameter of R10 and R11, at memory size `n`. -/
def Params.defaults (n : MemSize) : Params :=
  { memSize := n, opcodeMap := OpcodeMap.default, absAddrAt := .byte1, indexedEA := .pcrelPlusB,
    scanmZeroLen := .len256, failCycles := .one, hexCase := .upper }

/-- The memory size of `State.reset`: DESIGN CHOICE (log 1), unsafe where a statement rests on it. The spec takes
no value (R7); its own scenarios use 256. -/
def MemSize.scenario : MemSize := ⟨256, by decide, by decide⟩

end Sys2Proof
end

