-- ==== Sys2Proof/Machine/State.lean ====
section
/-! DEFINITION. Everything the machine holds, as plain data: the architectural state (`VMState`, 10_state.md R20), the
parameters of the instance, the outputs of a step and the run loop's two pieces of state (R35, R39), and the
environment's side of the external calls (R39, R257). -/

namespace Sys2Proof.Machine

/-! ### The environment's answers (R39: "each external call is an oracle: a free input of the step") -/

/-- What an external call comes back with: a value, or an exception with its message (R304). -/
inductive Answer (α : Type) where
  | ok (value : α)
  | thrown (message : String)
  deriving DecidableEq, Repr

/-- A function given as data: the listed keys have the listed answers, every other key has `other` (log 7). -/
structure Table (κ α : Type) where
  entries : List (κ × α)
  other : α
  deriving DecidableEq, Repr

/-- The identity of a unit, as the environment knows it. -/
abbrev UnitId := Nat

/-- The types of unit (R19, R314). -/
inductive UnitType where
  | hull
  | assembler
  | computer
  deriving DecidableEq, Repr

/-- The spec an Assembler builds: "HULL:capacity | ASSEMBLER:assemblePower | COMPUTER:processingPower+memorySize"
(R275). -/
inductive TargetSpec where
  | hull (capacity : Int)
  | assembler (assemblePower : Int)
  | computer (processingPower memorySize : Int)
  deriving DecidableEq, Repr

/-- The production state of an Assembler (R279). Idle, Producing and Complete are derived from it, never stored.
`progress` is "a number": a rational here, DESIGN CHOICE (log 10). -/
structure Assembler where
  isAssembling : Bool
  progress : Rat
  targetSpec : Option TargetSpec
  deriving DecidableEq, Repr

/-- What a Start on an Assembler that is not producing comes to (R275): one oracle answer. -/
inductive StartOutcome where
  /-- The registers were read, the spec built and the start-trigger bits written. -/
  | started (spec : TargetSpec)
  /-- A read of the Assembler's registers, at `address`, answered null. -/
  | readRejected (address : Word)
  /-- A write of the start-trigger bits, at `address`, answered false. -/
  | writeRejected (address : Word)
  deriving DecidableEq, Repr

/-- A UnitMemoryInterface: the answers of `ReadMemory` (a number or null) by unit-local address, and of `WriteMemory`
by unit-local address and byte (R39, R252). -/
structure MemInterface where
  read : Table Word (Answer (Option Int))
  write : Table (Word × Byte) (Answer Bool)
  deriving DecidableEq, Repr

/-- A sibling unit as the core can see it (R39, R274): its type, the answers of `CanAccess(self, u)` and `MemIf(u)`,
and, of an Assembler, its production state and what a Start would come to. -/
structure SiblingUnit where
  type : UnitType
  canAccess : Answer Bool
  memIf : Answer (Option MemInterface)
  assembler : Answer Assembler
  start : Answer StartOutcome
  deriving DecidableEq, Repr

/-- The result of EnergyControl: `{success, value?, error?}` (R39, R273). -/
structure EnergyResult where
  success : Bool
  value : Option Int
  error : Option String
  deriving DecidableEq, Repr

/-- The UnitContext of one step (R19, R39): the executing unit, the selector lookup, the units, and the answers of
EnergyControl by subcommand and of SelfScan. -/
structure UnitContext where
  self : UnitId
  lookup : Table Byte (Answer (Option UnitId))
  units : Table UnitId SiblingUnit
  energy : Table Byte (Answer EnergyResult)
  scan : Answer (List Byte)
  deriving DecidableEq, Repr

/-- What the environment does before a step (log 6). -/
inductive EnvInput where
  /-- Nothing: the step is given the context as the last step left it. -/
  | keep
  /-- It supplies this context, or none. -/
  | supply (ctx : Option UnitContext)
  deriving DecidableEq, Repr

/-- A call the core makes to the environment, with what it sends (R39). -/
inductive ExtCall where
  | lookup (sel : Byte)
  | canAccess (self target : UnitId)
  | memIf (u : UnitId)
  | readMemory (u : UnitId) (address : Word)
  | writeMemory (u : UnitId) (address : Word) (byte : Byte)
  | energy (self : UnitId) (sub : Byte)
  | scan (self : UnitId) (mem : Memory) (dest : Word)
  | assemblerStart (u : UnitId)
  | assemblerStop (u : UnitId)
  | assemblerQuery (u : UnitId)
  deriving DecidableEq, Repr

/-! ### The outputs of a step -/

/-- The error codes of R302, each with the information the table says it records. -/
inductive ErrorCode where
  | undefinedInstruction (opcode : Byte)
  | divisionByZero
  | requiresUnitContext
  | unitNotFound (sel : Byte)
  | accessDenied (sel : Byte)
  | noMemoryInterface (sel : Byte)
  | memoryReadRejected (sel : Byte) (address : Word)
  | memoryWriteRejected (sel : Byte) (address : Word)
  | invalidAssembleCommand (cmd : Byte)
  | energyCommandFailed (error : Option String)
  /-- Named in the source's taxonomy without a cause; never raised (R302). -/
  | invalidOperands
  | internalError (message : String)
  deriving DecidableEq, Repr

/-- `ExecutionResult = {success, error?, cycles}` (R39). -/
inductive ExecutionResult where
  | success (cycles : Nat)
  | failure (error : ErrorCode) (cycles : Nat)
  deriving DecidableEq, Repr

/-! ### The state -/

/-- The architectural state of one instance, without its size `N` (R20): the registers A to D, `pc` and `sp`
(integers in `[0, N)`, R24, R26), the flags `Z` and `Cy`, and the memory. `State` adds `N` and the proofs that they are
in range. -/
structure VMState where
  a : Word
  b : Word
  c : Word
  d : Word
  pc : Nat
  sp : Nat
  z : Bool
  cy : Bool
  mem : Memory
  deriving DecidableEq, Repr

/-- The state of the machine: the architectural state and, beside it,
* `params`: the configuration, `N` among it, which no step changes (R7, R11, R32);
* `ctx`: the UnitContext of the step, or none (R39);
* `inputs`: what the environment does before each coming step, the next one first; after the last, nothing (log 6);
* `calls`: the external calls of the last step, in order (R39, R57);
* `result`: the ExecutionResult of the last step, none before the first (R39);
* `message`: the text of the last step's failure, in the instance's `HEX_CASE`, none after a success and for a code whose
  text the spec does not fix (R302, R305; it is an output and no architectural state);
* `used`, `halted`: the run loop's accumulator and whether a step has failed in this tick (R35, R340, R342).
The last three fields make a state that breaks R33 unrepresentable: `pc` and `sp` are below `N`, and memory has no byte at
or above `N`. The registers, the flags and the bytes are in range by their types (log 14). -/
structure State extends VMState where
  params : Params
  ctx : Option UnitContext
  inputs : List EnvInput
  calls : List ExtCall
  result : Option ExecutionResult
  message : Option String
  used : Nat
  halted : Bool
  pcInRange : pc < params.memSize.val
  spInRange : sp < params.memSize.val
  memInRange : mem.below params.memSize.val = true
  deriving DecidableEq, Repr

/-- The stops of the machine: there is none. A failure of the spec changes nothing and the machine goes on with it on
the next tick (R300, R301, R309), so it is a next state (log 4). Safe: nothing is proved of a run by its stopping. -/
inductive Fault where
  deriving DecidableEq, Repr

/-- What the model refuses. -/
inductive Refusal where
  /-- Raised by `exec` for an instruction without a meaning. Safe: nothing is claimed of it. -/
  | notModelled (mnemonic : String)
  /-- Raised by `construct`, never by a step: the memory size is outside `[1, 65536]` (R331). Safe. -/
  | invalidSize
  /-- Raised by `construct`, never by a step: the backing buffer's length is not `N` (R331). Safe. -/
  | sizeMismatch
  deriving DecidableEq, Repr

/-- What a step answers. -/
abbrev Result := Host.Outcome State Fault Refusal

/-- The architectural state after a reset at memory size `n` (R333, R334): everything 0, `sp = N - 1`. -/
def VMState.reset (n : MemSize) : VMState :=
  { a := 0, b := 0, c := 0, d := 0, pc := 0, sp := n.val - 1, z := false, cy := false, mem := [] }

/-- The machine right after construction with parameters `p` and no backing buffer, or right after reset: the
architectural state of R334, the run loop's accumulator at 0 (R334), and, DESIGN CHOICE, no context, no input, no call,
no result and no message yet (log 5, log 6). -/
def State.resetWith (p : Params) : State :=
  { toVMState := VMState.reset p.memSize, params := p, ctx := none, inputs := [], calls := [], result := none,
    message := none, used := 0, halted := false, pcInRange := p.memSize.pos,
    spInRange := Nat.sub_lt p.memSize.pos Nat.one_pos, memInRange := rfl }

/-- The machine right after reset, every parameter at its default (R11) and `N = 256` (DESIGN CHOICE, log 1). -/
def State.reset : State := State.resetWith (Params.defaults MemSize.scenario)

end Sys2Proof.Machine
end

