-- ==== Sys2Proof/Machine/Flags.lean ====
section
/-! DEFINITION. The flag helpers and the ALU (10_state.md R27, R28; 41_arithmetic.md R130 to R157), and the conditions
of the jumps (44_jump.md R222 to R232). Every operation computes on unbounded integers and narrows at the end. -/

namespace Sys2Proof.Machine

/-- `setZ(v)`: `(v & 0xFFFF) == 0` (R27, R130). -/
def zeroFlag (v : Int) : Bool := decide (v % 0x10000 = 0)

/-- `setCyAdd(r32)`: the unmasked sum exceeds `0xFFFF` (R28, R130). -/
def carryAdd (r : Nat) : Bool := decide (r > 0xFFFF)

/-- `setCySub(a, b)`: the borrow `a < b` of the unsigned operands (R28, R130). -/
def carrySub (a b : Word) : Bool := decide (a.toNat < b.toNat)

/-- What an ALU operation gives: the 16-bit result and the two flags. -/
structure AluOut where
  res : Word
  z : Bool
  cy : Bool
  deriving DecidableEq, Repr

/-- Addition: ADD and INC (R132 to R135, R140, R147). -/
def aluAdd (a b : Word) : AluOut :=
  let r := a.toNat + b.toNat
  { res := BitVec.ofNat 16 r, z := zeroFlag r, cy := carryAdd r }

/-- Subtraction: SUB, DEC and the flags of CMP (R136 to R139, R141, R142, R148, R152). -/
def aluSub (a b : Word) : AluOut :=
  let r : Int := (a.toNat : Int) - b.toNat
  { res := BitVec.ofInt 16 r, z := zeroFlag r, cy := carrySub a b }

/-- A result whose `Z` is its own and whose `Cy` is cleared: the logic operations (R131, R143 to R146, R149 to R151). -/
def aluLogic (r : Word) : AluOut :=
  { res := r, z := zeroFlag r.toNat, cy := false }

/-- Multiplication: the low 16 bits, `Z` of them, `Cy` cleared (R153). -/
def aluMul (a b : Word) : AluOut :=
  let p := a.toNat * b.toNat
  { res := BitVec.ofNat 16 p, z := zeroFlag (p % 0x10000 : Nat), cy := false }

/-- The quotient of DIV_AB for `b ≠ 0`, `Z` of it, `Cy` cleared (R131, R154). -/
def aluDiv (a b : Word) : AluOut :=
  let q := a.toNat / b.toNat
  { res := BitVec.ofNat 16 q, z := zeroFlag q, cy := false }

/-- The remainder of DIV_AB: `a - q * b` (R154). -/
def divRemainder (a b : Word) : Word :=
  BitVec.ofNat 16 (a.toNat - a.toNat / b.toNat * b.toNat)

/-- The shift count: the low five bits of B (R155, R156). -/
def shiftCount (b : Word) : Nat := b.toNat % 32

/-- Shift left (R155). -/
def aluShl (a b : Word) : AluOut :=
  let n := shiftCount b
  let res : Word := if n < 16 then BitVec.ofNat 16 (a.toNat * 2 ^ n) else 0
  let cy : Bool :=
    if n = 0 then false
    else if n < 16 then decide (a.toNat / 2 ^ (16 - n) % 2 = 1)
    else decide (a.toNat ≠ 0)
  { res := res, z := zeroFlag res.toNat, cy := cy }

/-- Shift right, logical (R156). -/
def aluShr (a b : Word) : AluOut :=
  let n := shiftCount b
  let res : Word := if n < 16 then BitVec.ofNat 16 (a.toNat / 2 ^ n) else 0
  let cy : Bool :=
    if n = 0 then false
    else if n < 16 then decide (a.toNat / 2 ^ (n - 1) % 2 = 1)
    else decide (a.toNat ≠ 0)
  { res := res, z := zeroFlag res.toNat, cy := cy }

/-! ### The conditions of the jumps on `Z` and `Cy` (R222 to R232) -/

/-- JZ (R222). -/
def condZ (z _cy : Bool) : Bool := z

/-- JNZ (R223). -/
def condNZ (z _cy : Bool) : Bool := !z

/-- JC (R224). -/
def condC (_z cy : Bool) : Bool := cy

/-- JNC (R225). -/
def condNC (_z cy : Bool) : Bool := !cy

/-- JG: `not Cy and not Z` (R226, R227). -/
def condG (z cy : Bool) : Bool := !cy && !z

/-- JGE: `not Cy or Z` (R226, R228). -/
def condGE (z cy : Bool) : Bool := !cy || z

/-- JL: `Cy and not Z` (R226, R229). -/
def condL (z cy : Bool) : Bool := cy && !z

/-- JLE: `Cy or Z` (R226, R230). -/
def condLE (z cy : Bool) : Bool := cy || z

/-- JUL: `Cy and not Z` (R226, R231). -/
def condUL (z cy : Bool) : Bool := cy && !z

/-- JUGE: `not Cy or Z` (R226, R232). -/
def condUGE (z cy : Bool) : Bool := !cy || z

end Sys2Proof.Machine
end

