-- ==== Sys2Proof/Machine/Memory.lean ====
section
/-! DEFINITION. Addresses reduced mod N, and the access primitives of the core over its memory (20_memory.md R40 to R48,
00_scope.md R15). -/

namespace Sys2Proof.Machine

/-- `N`, the memory size of the instance (R7). -/
def State.size (s : State) : Nat := s.params.memSize.val

/-- `t mod N`, the mathematical modulus: every address, `pc` and `sp` is reduced so (R12, R24, R26, R41). -/
def State.wrap (s : State) (t : Int) : Nat := (t % (s.size : Int)).toNat

/-- A reduced address lies in `[0, N)` (R12, R33). -/
theorem State.wrap_lt (s : State) (t : Int) : s.wrap t < s.size := by
  have hpos : 0 < s.size := s.params.memSize.pos
  have hlt : t % (s.size : Int) < s.size := Int.emod_lt_of_pos t (by omega)
  have hnonneg : 0 ≤ t % (s.size : Int) := Int.emod_nonneg t (by omega)
  unfold State.wrap
  omega

/-- `MemRead(addr, 1)` (R15, R41). -/
def State.memRead8 (s : State) (addr : Int) : Byte := s.mem.read (s.wrap addr)

/-- `MemRead(addr, 2)`: little-endian, each byte's address reduced on its own (R15, R42, R43). -/
def State.memRead16 (s : State) (addr : Int) : Word := u16 (s.memRead8 addr) (s.memRead8 (addr + 1))

/-- Memory replaced by contents within `[0, N)` (R30, R33). -/
def State.withMem (s : State) (m : Memory) (h : m.below s.size = true) : State := { s with mem := m, memInRange := h }

/-- `MemWrite(addr, 1, b)` (R15, R41). -/
def State.memWrite8 (s : State) (addr : Int) (b : Byte) : State :=
  s.withMem (s.mem.write (s.wrap addr) b) (Memory.below_write s.memInRange (s.wrap_lt addr) b)

/-- `MemWrite(addr, 2, v)`: the low byte first, then the high byte (R15, R42 to R44). -/
def State.memWrite16 (s : State) (addr : Int) (v : Word) : State :=
  (s.memWrite8 addr (loByte v)).memWrite8 (addr + 1) (hiByte v)

/-- Bytes written at `addr`, `addr + 1`, …, in that order (R271). -/
def State.memWriteBytes (s : State) (addr : Int) : List Byte → State
  | [] => s
  | b :: rest => State.memWriteBytes (s.memWrite8 addr b) (addr + 1) rest

/-- A forward copy of `n` bytes, each read just before it is written (R272). -/
def State.memCopy (s : State) (src dst : Int) : Nat → State
  | 0 => s
  | n + 1 => State.memCopy (s.memWrite8 dst (s.memRead8 src)) (src + 1) (dst + 1) n

end Sys2Proof.Machine
end

