-- ==== Sys2Proof/Machine/Operands.lean ====
section
/-! DEFINITION. The operand forms: registers, relative targets and the four data addressing modes (30_encoding.md R63
to R67, 43_memory_access.md R191, R196, R201, R206, R211). -/

namespace Sys2Proof.Machine

/-- The value of a general register (R21). -/
def State.reg (s : State) : Reg → Word
  | .a => s.a
  | .b => s.b
  | .c => s.c
  | .d => s.d

/-- A general register written (R22). -/
def State.setReg (s : State) (r : Reg) (v : Word) : State :=
  match r with
  | .a => { s with a := v }
  | .b => { s with b := v }
  | .c => { s with c := v }
  | .d => { s with d := v }

/-- The target of a relative form, `(pc + 3 + off16) mod N`, `off16` signed (R63, R191, R220). -/
def State.relTarget (s : State) (off : Word) : Nat := s.wrap ((s.pc : Int) + 3 + off.toInt)

/-- The B-indexed effective address, under either reading of `INDEXED_EA` (R196). -/
def State.eaIndexed (s : State) (off : Word) : Nat :=
  match s.params.indexedEA with
  | .pcrelPlusB => s.wrap ((s.pc : Int) + 3 + off.toInt + s.b.toNat)
  | .bPlusOff => s.wrap ((s.b.toNat : Int) + off.toInt)

/-- The register-indexed effective address, `x[r] mod N` (R201). -/
def State.eaReg (s : State) (r : Reg) : Nat := s.wrap ((s.reg r).toNat : Int)

/-- An absolute address, `addr16 mod N`: a data address or a jump target (R67, R206, R234, R236). -/
def State.absTarget (s : State) (addr : Word) : Nat := s.wrap (addr.toNat : Int)

end Sys2Proof.Machine
end

