-- ==== Sys2Proof/Machine/Ops.lean ====
section
/-! DEFINITION. The operations the meanings share: writing `pc`, `sp` and the flags, the stack, the messages of failures,
ending a step, FAILING a step (the machine's only exception, 60_exceptions.md R300 to R310), and taking the environment's input. -/

namespace Sys2Proof.Machine

/-! ### pc, sp, flags, stack -/

/-- `pc <- t`, reduced mod N (R14, R24). -/
def State.setPc (s : State) (t : Int) : State := { s with pc := s.wrap t, pcInRange := s.wrap_lt t }

/-- `sp <- t`, reduced mod N (R14, R26). -/
def State.setSp (s : State) (t : Int) : State := { s with sp := s.wrap t, spInRange := s.wrap_lt t }

/-- `advancePC(n)`: `pc <- (pc + n) mod N` (R25). -/
def State.advance (s : State) (n : Nat) : State := s.setPc ((s.pc : Int) + n)

/-- Both flags written. -/
def State.setFlags (s : State) (z cy : Bool) : State := { s with z := z, cy := cy }

/-- `push16(v)`: `sp <- (sp - 2) mod N`, then the word at the new `sp` (R47). -/
def State.push16 (s : State) (v : Word) : State :=
  let s' := s.setSp ((s.sp : Int) - 2)
  s'.memWrite16 s'.sp v

/-- The word `pop16()` returns: the one at the old `sp` (R48). -/
def State.popWord (s : State) : Word := s.memRead16 s.sp

/-- What `pop16()` leaves: `sp <- (sp + 2) mod N`, memory as it was (R48). -/
def State.popSp (s : State) : State := s.setSp ((s.sp : Int) + 2)

/-! ### Error messages (R305) -/

/-- One hexadecimal digit. -/
def hexDigit (h : HexCase) (n : Nat) : Char :=
  if n < 10 then Char.ofNat (48 + n)
  else match h with
    | .upper => Char.ofNat (55 + n)
    | .lower => Char.ofNat (87 + n)

/-- `hex2(sel)`: the byte as two hexadecimal digits (R251, R305). -/
def hex2 (h : HexCase) (b : Byte) : String :=
  String.ofList [hexDigit h (b.toNat / 16), hexDigit h (b.toNat % 16)]

/-- The message of a failure under a case of the digits, where the spec fixes it (R302, R304, R305); none for the other
codes. That the fixed text is the whole message is DEDUCED (log 18). -/
def ErrorCode.message (h : HexCase) : ErrorCode → Option String
  | .divisionByZero => some "Division by zero"
  | .unitNotFound sel => some ("Unit not found: 0x" ++ hex2 h sel)
  | .energyCommandFailed e => e
  | .internalError m => some m
  | _ => none

/-! ### Ending a step -/

/-- The step succeeds at a cost of `cycles`: its result is reported, without a message, and the run loop's accumulator
grows by the cost (R16, R39, R81, R340). -/
def State.ok (s : State) (cycles : Nat) : Result :=
  .next { s with result := some (.success cycles), message := none, used := s.used + cycles }

/-- The cost of a failure, the failures of the UNIT instructions apart (R303). -/
def State.failCost (s : State) : Nat :=
  match s.params.failCycles with
  | .one => 1
  | .threeForUnit => 1

/-- The cost of a failure of a UNIT instruction: 1, or 3 under the alternative reading (R250, R303, log 13). -/
def State.unitFailCost (s : State) : Nat :=
  match s.params.failCycles with
  | .one => 1
  | .threeForUnit => 3

/-- TAKING A FAILURE: `raise E` (R16). No architectural state changes (R301); the error, its message in the
instance's `HEX_CASE` (R305) and the cost are reported, the cost counts towards the budget, and the unit halts for the rest of the tick (R303, R308, R340, R342). Nothing returns
from it: the next tick fetches the same instruction again (R309), `State.beginTick`. -/
def State.fail (s : State) (e : ErrorCode) (cycles : Nat) : Result :=
  .next { s with
    result := some (.failure e cycles), message := e.message s.params.hexCase, used := s.used + cycles, halted := true }

/-- A new tick begins: nothing used yet, not halted; everything else as the last tick left it (R56, R309, R340,
R342). -/
def State.beginTick (s : State) : State := { s with used := 0, halted := false }

/-! ### The environment (R39, log 6) -/

/-- An external call is made: it is the last of the step so far. -/
def State.call (s : State) (c : ExtCall) : State := { s with calls := s.calls ++ [c] }

/-- The context a step is given: what the head of the input queue supplies, else the one that stands (log 6). -/
def State.nextCtx (s : State) : Option UnitContext :=
  match s.inputs with
  | .supply c :: _ => c
  | _ => s.ctx

/-- What a step begins with: the environment's input taken, and no call made yet. -/
def State.beginStep (s : State) : State :=
  { s with ctx := s.nextCtx, inputs := s.inputs.tail, calls := [] }

/-- The answer of a table for a key. -/
def Table.get {κ α : Type} [DecidableEq κ] (t : Table κ α) (k : κ) : α :=
  (t.entries.lookup k).getD t.other

/-- A table with its answer for one key replaced. -/
def Table.set {κ α : Type} [DecidableEq κ] (t : Table κ α) (k : κ) (v : α) : Table κ α :=
  { t with entries := (k, v) :: t.entries.filter (fun e => decide (e.1 ≠ k)) }

/-- The context with the Assembler state of unit `u` replaced (R279: "state lives on the target Assembler unit"). -/
def UnitContext.setAssembler (ctx : UnitContext) (u : UnitId) (m : Assembler) : UnitContext :=
  { ctx with units := ctx.units.set u { ctx.units.get u with assembler := .ok m } }

/-- The step leaves the Assembler `u` of its context in state `m`. -/
def State.setAssembler (s : State) (ctx : UnitContext) (u : UnitId) (m : Assembler) : State :=
  { s with ctx := some (ctx.setAssembler u m) }

end Sys2Proof.Machine
end

