-- ==== Sys2Proof/Machine/Arithmetic.lean ====
section
/-! DEFINITION. The ARITHMETIC instructions (41_arithmetic.md R130 to R157). -/

namespace Sys2Proof.Machine

/-- An ALU result written to a register with its flags, then the pc past `len` bytes (R130). -/
def State.aluWrite (s : State) (dst : Reg) (r : AluOut) (len cycles : Nat) : Result :=
  (((s.setReg dst r.res).setFlags r.z r.cy).advance len).ok cycles

/-- The flags of an ALU result without the result: the comparisons (R142, R152). -/
def State.aluFlags (s : State) (r : AluOut) (len cycles : Nat) : Result :=
  ((s.setFlags r.z r.cy).advance len).ok cycles

/-- INC_A, R132. -/
def execIncA (s : State) : Result := s.aluWrite .a (aluAdd s.a 1) 1 1

/-- INC_B, R133. -/
def execIncB (s : State) : Result := s.aluWrite .b (aluAdd s.b 1) 1 1

/-- INC_C, R134. -/
def execIncC (s : State) : Result := s.aluWrite .c (aluAdd s.c 1) 1 1

/-- INC_D, R135. -/
def execIncD (s : State) : Result := s.aluWrite .d (aluAdd s.d 1) 1 1

/-- DEC_A, R136. -/
def execDecA (s : State) : Result := s.aluWrite .a (aluSub s.a 1) 1 1

/-- DEC_B, R137. -/
def execDecB (s : State) : Result := s.aluWrite .b (aluSub s.b 1) 1 1

/-- DEC_C, R138. -/
def execDecC (s : State) : Result := s.aluWrite .c (aluSub s.c 1) 1 1

/-- DEC_D, R139. -/
def execDecD (s : State) : Result := s.aluWrite .d (aluSub s.d 1) 1 1

/-- ADD_AB, R140. -/
def execAddAB (s : State) : Result := s.aluWrite .a (aluAdd s.a s.b) 1 1

/-- SUB_AB, R141. -/
def execSubAB (s : State) : Result := s.aluWrite .a (aluSub s.a s.b) 1 1

/-- CMP_AB, R142. -/
def execCmpAB (s : State) : Result := s.aluFlags (aluSub s.a s.b) 1 1

/-- AND_AB, R143. -/
def execAndAB (s : State) : Result := s.aluWrite .a (aluLogic (s.a &&& s.b)) 1 1

/-- OR_AB, R144. -/
def execOrAB (s : State) : Result := s.aluWrite .a (aluLogic (s.a ||| s.b)) 1 1

/-- XOR_AB, R145. -/
def execXorAB (s : State) : Result := s.aluWrite .a (aluLogic (s.a ^^^ s.b)) 1 1

/-- NOT_A, R146. -/
def execNotA (s : State) : Result := s.aluWrite .a (aluLogic (~~~ s.a)) 1 1

/-- ADD_A_IMM, R147. -/
def execAddAImm (imm : Word) (s : State) : Result := s.aluWrite .a (aluAdd s.a imm) 3 2

/-- SUB_A_IMM, R148. -/
def execSubAImm (imm : Word) (s : State) : Result := s.aluWrite .a (aluSub s.a imm) 3 2

/-- AND_A_IMM, R149. -/
def execAndAImm (imm : Word) (s : State) : Result := s.aluWrite .a (aluLogic (s.a &&& imm)) 3 2

/-- OR_A_IMM, R150. -/
def execOrAImm (imm : Word) (s : State) : Result := s.aluWrite .a (aluLogic (s.a ||| imm)) 3 2

/-- XOR_A_IMM, R151. -/
def execXorAImm (imm : Word) (s : State) : Result := s.aluWrite .a (aluLogic (s.a ^^^ imm)) 3 2

/-- CMP_A_IMM, R152. -/
def execCmpAImm (imm : Word) (s : State) : Result := s.aluFlags (aluSub s.a imm) 3 2

/-- MUL_AB, R153. -/
def execMulAB (s : State) : Result := s.aluWrite .a (aluMul s.a s.b) 5 1

/-- DIV_AB, R154: fails with DivisionByZero when B is 0; else the quotient to A, the remainder of the original A to B. -/
def execDivAB (s : State) : Result :=
  if s.b = 0 then s.fail .divisionByZero s.failCost
  else (s.setReg .b (divRemainder s.a s.b)).aluWrite .a (aluDiv s.a s.b) 5 1

/-- SHL, R155. -/
def execShl (s : State) : Result := s.aluWrite .a (aluShl s.a s.b) 5 1

/-- SHR, R156. -/
def execShr (s : State) : Result := s.aluWrite .a (aluShr s.a s.b) 5 1

end Sys2Proof.Machine
end

