-- ==== Sys2Proof/Machine/DataMove.lean ====
section
/-! DEFINITION. NOP and the DATA_MOVE instructions (40_nop_data_move.md R100 to R122). None fails, none writes a flag. -/

namespace Sys2Proof.Machine

/-- A register copy of one byte: the destination takes the source's value, 1 cycle (R101 to R113). -/
def State.moveReg (s : State) (dst src : Reg) : Result := ((s.setReg dst (s.reg src)).advance 1).ok 1

/-- An immediate load of `len` bytes and `cycles` cycles (R117 to R122). -/
def State.moveImm (s : State) (dst : Reg) (imm : Word) (len cycles : Nat) : Result :=
  ((s.setReg dst imm).advance len).ok cycles

/-- NOP, R100. -/
def execNop (s : State) : Result := (s.advance 1).ok 1

/-- MOV_AB, R102. -/
def execMovAB (s : State) : Result := s.moveReg .a .b

/-- MOV_AC, R103. -/
def execMovAC (s : State) : Result := s.moveReg .a .c

/-- MOV_AD, R104. -/
def execMovAD (s : State) : Result := s.moveReg .a .d

/-- MOV_BA, R105. -/
def execMovBA (s : State) : Result := s.moveReg .b .a

/-- MOV_BC, R106. -/
def execMovBC (s : State) : Result := s.moveReg .b .c

/-- MOV_BD, R107. -/
def execMovBD (s : State) : Result := s.moveReg .b .d

/-- MOV_CA, R108. -/
def execMovCA (s : State) : Result := s.moveReg .c .a

/-- MOV_CB, R109. -/
def execMovCB (s : State) : Result := s.moveReg .c .b

/-- MOV_CD, R110. -/
def execMovCD (s : State) : Result := s.moveReg .c .d

/-- MOV_DA, R111. -/
def execMovDA (s : State) : Result := s.moveReg .d .a

/-- MOV_DB, R112. -/
def execMovDB (s : State) : Result := s.moveReg .d .b

/-- MOV_DC, R113. -/
def execMovDC (s : State) : Result := s.moveReg .d .c

/-- XCHG_AB, R114. -/
def execXchgAB (s : State) : Result := (((s.setReg .a s.b).setReg .b s.a).advance 1).ok 1

/-- MOV_A_SP, R115. -/
def execMovASp (s : State) : Result := ((s.setReg .a (BitVec.ofNat 16 s.sp)).advance 1).ok 1

/-- MOV_SP_A, R116. -/
def execMovSpA (s : State) : Result := ((s.setSp s.a.toNat).advance 1).ok 1

/-- MOV_A_IMM, R117. -/
def execMovAImm (imm : Word) (s : State) : Result := s.moveImm .a imm 3 2

/-- MOV_B_IMM, R118. -/
def execMovBImm (imm : Word) (s : State) : Result := s.moveImm .b imm 3 2

/-- MOV_C_IMM, R119. -/
def execMovCImm (imm : Word) (s : State) : Result := s.moveImm .c imm 3 2

/-- MOV_D_IMM, R120. -/
def execMovDImm (imm : Word) (s : State) : Result := s.moveImm .d imm 3 2

/-- LOAD_IMM, R121. -/
def execLoadImm (imm : Word) (s : State) : Result := s.moveImm .a imm 5 1

/-- LOAD_IMM_B, R122. -/
def execLoadImmB (imm : Word) (s : State) : Result := s.moveImm .b imm 5 1

end Sys2Proof.Machine
end

