-- ==== Sys2Proof/Machine/Jump.lean ====
section
/-! DEFINITION. The JUMP instructions (44_jump.md R220 to R238): a taken jump costs 3 cycles, one not taken 1; no flag, no failure. -/

namespace Sys2Proof.Machine

/-- A jump taken to `target` (R220). -/
def State.jumpTo (s : State) (target : Nat) : Result := (s.setPc target).ok 3

/-- A relative jump on a condition (R220). -/
def State.jumpIf (s : State) (cond : Bool) (off : Word) : Result :=
  if cond then s.jumpTo (s.relTarget off) else (s.advance 3).ok 1

/-- The return address of a call of `len` bytes: `(pc + len) mod N` (R233, R236). -/
def State.returnAddress (s : State) (len : Nat) : Word := BitVec.ofNat 16 (s.wrap ((s.pc : Int) + len))

/-- A call of `len` bytes to `target`, which stands before the push (R55, R233, R236). -/
def State.callTo (s : State) (target len : Nat) : Result := (s.push16 (s.returnAddress len)).jumpTo target

/-- RET, R235: the target is C; memory and `sp` are not touched. -/
def execRet (s : State) : Result := s.jumpTo (s.wrap (s.c.toNat : Int))

/-- JMP, R221. -/
def execJmp (off : Word) (s : State) : Result := s.jumpTo (s.relTarget off)

/-- JZ, R222. -/
def execJz (off : Word) (s : State) : Result := s.jumpIf (condZ s.z s.cy) off

/-- JNZ, R223. -/
def execJnz (off : Word) (s : State) : Result := s.jumpIf (condNZ s.z s.cy) off

/-- JC, R224. -/
def execJc (off : Word) (s : State) : Result := s.jumpIf (condC s.z s.cy) off

/-- JNC, R225. -/
def execJnc (off : Word) (s : State) : Result := s.jumpIf (condNC s.z s.cy) off

/-- JG, R227. -/
def execJg (off : Word) (s : State) : Result := s.jumpIf (condG s.z s.cy) off

/-- JGE, R228. -/
def execJge (off : Word) (s : State) : Result := s.jumpIf (condGE s.z s.cy) off

/-- JL, R229. -/
def execJl (off : Word) (s : State) : Result := s.jumpIf (condL s.z s.cy) off

/-- JLE, R230. -/
def execJle (off : Word) (s : State) : Result := s.jumpIf (condLE s.z s.cy) off

/-- JUL, R231. -/
def execJul (off : Word) (s : State) : Result := s.jumpIf (condUL s.z s.cy) off

/-- JUGE, R232. -/
def execJuge (off : Word) (s : State) : Result := s.jumpIf (condUGE s.z s.cy) off

/-- CALL, R233. -/
def execCall (off : Word) (s : State) : Result := s.callTo (s.relTarget off) 3

/-- JMP_ABS, R234. -/
def execJmpAbs (addr : Word) (s : State) : Result := s.jumpTo (s.absTarget addr)

/-- CALL_ABS, R236. -/
def execCallAbs (addr : Word) (s : State) : Result := s.callTo (s.absTarget addr) 4

end Sys2Proof.Machine
end

