-- ==== Sys2Proof/Machine/MemoryAccess.lean ====
section
/-! DEFINITION. The MEMORY instructions (43_memory_access.md R190 to R211): A is the data register, 2 cycles, no flag, no failure. -/

namespace Sys2Proof.Machine

/-- A word load into A from address `ea` (R190). -/
def State.loadWord (s : State) (ea len : Nat) : Result := ((s.setReg .a (s.memRead16 ea)).advance len).ok 2

/-- A byte load into A, zero-extended (R190). -/
def State.loadByte (s : State) (ea len : Nat) : Result :=
  ((s.setReg .a ((s.memRead8 ea).setWidth 16)).advance len).ok 2

/-- A word store of A (R190). -/
def State.storeWord (s : State) (ea len : Nat) : Result := ((s.memWrite16 ea s.a).advance len).ok 2

/-- A byte store of the low 8 bits of A (R190). -/
def State.storeByte (s : State) (ea len : Nat) : Result := ((s.memWrite8 ea (loByte s.a)).advance len).ok 2

/-- LOAD_A, R192. -/
def execLoadA (off : Word) (s : State) : Result := s.loadWord (s.relTarget off) 3

/-- STORE_A, R193. -/
def execStoreA (off : Word) (s : State) : Result := s.storeWord (s.relTarget off) 3

/-- LOAD_A_BYTE, R194. -/
def execLoadAByte (off : Word) (s : State) : Result := s.loadByte (s.relTarget off) 3

/-- STORE_A_BYTE, R195. -/
def execStoreAByte (off : Word) (s : State) : Result := s.storeByte (s.relTarget off) 3

/-- LOAD_IND, R197. -/
def execLoadInd (off : Word) (s : State) : Result := s.loadWord (s.eaIndexed off) 3

/-- STORE_IND, R198. -/
def execStoreInd (off : Word) (s : State) : Result := s.storeWord (s.eaIndexed off) 3

/-- LOAD_IND_BYTE, R199. -/
def execLoadIndByte (off : Word) (s : State) : Result := s.loadByte (s.eaIndexed off) 3

/-- STORE_IND_BYTE, R200. -/
def execStoreIndByte (off : Word) (s : State) : Result := s.storeByte (s.eaIndexed off) 3

/-- LOAD_REG, R202. -/
def execLoadReg (r : Reg) (s : State) : Result := s.loadWord (s.eaReg r) 3

/-- STORE_REG, R203. -/
def execStoreReg (r : Reg) (s : State) : Result := s.storeWord (s.eaReg r) 3

/-- LOAD_REG_BYTE, R204. -/
def execLoadRegByte (r : Reg) (s : State) : Result := s.loadByte (s.eaReg r) 3

/-- STORE_REG_BYTE, R205. -/
def execStoreRegByte (r : Reg) (s : State) : Result := s.storeByte (s.eaReg r) 3

/-- LOAD_ABS, R207. -/
def execLoadAbs (addr : Word) (s : State) : Result := s.loadWord (s.absTarget addr) 4

/-- STORE_ABS, R208. -/
def execStoreAbs (addr : Word) (s : State) : Result := s.storeWord (s.absTarget addr) 4

/-- LOAD_ABS_BYTE, R209. -/
def execLoadAbsByte (addr : Word) (s : State) : Result := s.loadByte (s.absTarget addr) 4

/-- STORE_ABS_BYTE, R210. -/
def execStoreAbsByte (addr : Word) (s : State) : Result := s.storeByte (s.absTarget addr) 4

end Sys2Proof.Machine
end

