-- ==== Sys2Proof/Machine/UnitIo.lean ====
section
/-! DEFINITION. The UNIT instructions (45_unit_io.md R250 to R257), and the resolution of a target they share with ASSEMBLE. -/

namespace Sys2Proof.Machine

/-- The checks of R250 up to access, in their order, the unit's type (R274) after the lookup; `k` goes on with the
context and the unit. A call that throws fails with InternalError (R304). -/
def State.resolve (s : State) (sel : Byte) (accept : UnitType → Bool) (cost : Nat)
    (k : State → UnitContext → UnitId → Result) : Result :=
  match s.ctx with
  | none => s.fail .requiresUnitContext cost
  | some ctx =>
    match ctx.lookup.get sel with
    | .thrown m => (s.call (.lookup sel)).fail (.internalError m) cost
    | .ok none => (s.call (.lookup sel)).fail (.unitNotFound sel) cost
    | .ok (some u) =>
      if accept (ctx.units.get u).type then
        match (ctx.units.get u).canAccess with
        | .thrown m => ((s.call (.lookup sel)).call (.canAccess ctx.self u)).fail (.internalError m) cost
        | .ok false => ((s.call (.lookup sel)).call (.canAccess ctx.self u)).fail (.accessDenied sel) cost
        | .ok true => k ((s.call (.lookup sel)).call (.canAccess ctx.self u)) ctx u
      else (s.call (.lookup sel)).fail (.unitNotFound sel) cost

/-- `MemIf(u)`, the last check of R250; `k` goes on with the interface. -/
def State.openMemIf (s : State) (sel : Byte) (ctx : UnitContext) (u : UnitId) (cost : Nat)
    (k : State → MemInterface → Result) : Result :=
  match (ctx.units.get u).memIf with
  | .thrown m => (s.call (.memIf u)).fail (.internalError m) cost
  | .ok none => (s.call (.memIf u)).fail (.noMemoryInterface sel) cost
  | .ok (some mi) => k (s.call (.memIf u)) mi

/-- Every type of unit: a UNIT instruction makes no check of it (R250). -/
def anyUnit (_ : UnitType) : Bool := true

/-- A byte read from a sibling into A, masked to 8 bits and zero-extended (R252, R253). -/
def State.unitRead (s : State) (sel : Byte) (ua : Word) : Result :=
  s.resolve sel anyUnit s.unitFailCost fun s ctx u =>
    s.openMemIf sel ctx u s.unitFailCost fun s mi =>
      match mi.read.get ua with
      | .thrown m => (s.call (.readMemory u ua)).fail (.internalError m) s.unitFailCost
      | .ok none => (s.call (.readMemory u ua)).fail (.memoryReadRejected sel ua) s.unitFailCost
      | .ok (some v) =>
        (((s.call (.readMemory u ua)).setReg .a ((BitVec.ofInt 8 v).setWidth 16)).advance 4).ok 3

/-- The low 8 bits of A written to a sibling at `ua` (R252, R254, R255). -/
def State.unitWrite (s : State) (sel : Byte) (ua : Word) : Result :=
  s.resolve sel anyUnit s.unitFailCost fun s ctx u =>
    s.openMemIf sel ctx u s.unitFailCost fun s mi =>
      match mi.write.get (ua, loByte s.a) with
      | .thrown m => (s.call (.writeMemory u ua (loByte s.a))).fail (.internalError m) s.unitFailCost
      | .ok false =>
        (s.call (.writeMemory u ua (loByte s.a))).fail (.memoryWriteRejected sel ua) s.unitFailCost
      | .ok true => ((s.call (.writeMemory u ua (loByte s.a))).advance 4).ok 3

/-- UNIT_MEM_READ, R253. -/
def execUnitMemRead (sel : Byte) (ua : Word) (s : State) : Result := s.unitRead sel ua

/-- UNIT_MEM_WRITE, R254. -/
def execUnitMemWrite (sel : Byte) (ua : Word) (s : State) : Result := s.unitWrite sel ua

/-- UNIT_MEM_WRITE_DYN, R255: the unit-local address is B. -/
def execUnitMemWriteDyn (sel : Byte) (s : State) : Result := s.unitWrite sel s.b

end Sys2Proof.Machine
end

