-- ==== Sys2Proof/Machine/Special.lean ====
section
/-! DEFINITION. The SPECIAL instructions (46_special.md R270 to R279). -/

namespace Sys2Proof.Machine

/-- `SCANM_ZERO_LEN` as a number (R11, R272). -/
def scanmZeroLength : ScanmZeroLen → Nat
  | .len256 => 256
  | .len1 => 1

/-- The length SCANM copies: `C & 0xFF`, and `SCANM_ZERO_LEN` for 0 (R272). -/
def State.scanmLength (s : State) : Nat :=
  if s.c.toNat % 256 = 0 then scanmZeroLength s.params.scanmZeroLen else s.c.toNat % 256

/-- A SPECIAL instruction ends with `v` in A: 5 bytes, 5 cycles (R270, R273, R274). -/
def State.answerA (s : State) (v : Word) : Result := ((s.setReg .a v).advance 5).ok 5

/-- SCAN, R271: the bytes SelfScan answers, written at `dst` onwards. -/
def execScan (dst : Word) (s : State) : Result :=
  match s.ctx with
  | none => s.fail .requiresUnitContext s.failCost
  | some ctx =>
    match ctx.scan with
    | .thrown m => (s.call (.scan ctx.self s.mem dst)).fail (.internalError m) s.failCost
    | .ok bs => (((s.call (.scan ctx.self s.mem dst)).memWriteBytes dst.toNat bs).advance 5).ok 5

/-- SCANM, R272: a forward copy of `L` bytes, `5 + L` cycles; no context needed (R270). -/
def execScanm (src dst : Word) (s : State) : Result :=
  ((s.memCopy src.toNat dst.toNat s.scanmLength).advance 5).ok (5 + s.scanmLength)

/-- ENERGY, R273: the value EnergyControl answers, 0 when it answers none, masked to 16 bits. -/
def execEnergy (sub : Byte) (s : State) : Result :=
  match s.ctx with
  | none => s.fail .requiresUnitContext s.failCost
  | some ctx =>
    match ctx.energy.get sub with
    | .thrown m => (s.call (.energy ctx.self sub)).fail (.internalError m) s.failCost
    | .ok res =>
      if res.success then (s.call (.energy ctx.self sub)).answerA (BitVec.ofInt 16 (res.value.getD 0))
      else (s.call (.energy ctx.self sub)).fail (.energyCommandFailed res.error) s.failCost

/-- The one type ASSEMBLE accepts (R274). -/
def isAssemblerType (t : UnitType) : Bool := decide (t = .assembler)

/-- An Assembler that has been started: Producing, progress 0 (R275, R279). -/
def Assembler.started (spec : TargetSpec) : Assembler :=
  { isAssembling := true, progress := 0, targetSpec := some spec }

/-- An Assembler that has been stopped: Idle (R276, R279). -/
def Assembler.stopped : Assembler := { isAssembling := false, progress := 0, targetSpec := none }

/-- 0 for Idle, 1 for Producing, 2 for Complete (R277, R279). -/
def Assembler.status (m : Assembler) : Word :=
  if m.isAssembling then (if 1 ≤ m.progress then 2 else 1) else 0

/-- ASSEMBLE command 0, Start (R275): A = 0 if the Assembler is producing already; else one oracle call, which starts it
and answers A = 1, or fails and leaves it as it was. -/
def State.assembleStart (s : State) (sel : Byte) (ctx : UnitContext) (u : UnitId) : Result :=
  match (ctx.units.get u).assembler with
  | .thrown m => (s.call (.assemblerStart u)).fail (.internalError m) s.failCost
  | .ok m =>
    if m.isAssembling then (s.call (.assemblerStart u)).answerA 0
    else (s.call (.assemblerStart u)).openMemIf sel ctx u s.failCost fun s _ =>
      match (ctx.units.get u).start with
      | .thrown m => s.fail (.internalError m) s.failCost
      | .ok (.readRejected address) => s.fail (.memoryReadRejected sel address) s.failCost
      | .ok (.writeRejected address) => s.fail (.memoryWriteRejected sel address) s.failCost
      | .ok (.started spec) => (s.setAssembler ctx u (Assembler.started spec)).answerA 1

/-- ASSEMBLE command 1, Stop (R276): the Assembler is Idle, A = 1, from any of its states. -/
def State.assembleStop (s : State) (ctx : UnitContext) (u : UnitId) : Result :=
  match (ctx.units.get u).assembler with
  | .thrown m => (s.call (.assemblerStop u)).fail (.internalError m) s.failCost
  | .ok _ => ((s.call (.assemblerStop u)).setAssembler ctx u Assembler.stopped).answerA 1

/-- ASSEMBLE command 2, Query (R277): A is the Assembler's status; nothing else changes. -/
def State.assembleQuery (s : State) (ctx : UnitContext) (u : UnitId) : Result :=
  match (ctx.units.get u).assembler with
  | .thrown m => (s.call (.assemblerQuery u)).fail (.internalError m) s.failCost
  | .ok m => (s.call (.assemblerQuery u)).answerA m.status

/-- ASSEMBLE, R274 to R278: context, lookup and type, access, then the command. -/
def execAssemble (sel cmd : Byte) (s : State) : Result :=
  s.resolve sel isAssemblerType s.failCost fun s ctx u =>
    match cmd.toNat with
    | 0 => s.assembleStart sel ctx u
    | 1 => s.assembleStop ctx u
    | 2 => s.assembleQuery ctx u
    | _ => s.fail (.invalidAssembleCommand cmd) s.failCost

end Sys2Proof.Machine
end

