-- ==== Sys2Proof/Machine/Stack.lean ====
section
/-! DEFINITION. The STACK instructions (42_stack.md R180 to R188): 2 cycles, no flag, no failure, no check of the stack. -/

namespace Sys2Proof.Machine

/-- A push of a register (R180 to R184). -/
def State.pushReg (s : State) (r : Reg) : Result := ((s.push16 (s.reg r)).advance 1).ok 2

/-- A pop into a register: the word at the old `sp` (R180, R185 to R188). -/
def State.popReg (s : State) (r : Reg) : Result := ((s.popSp.setReg r s.popWord).advance 1).ok 2

/-- PUSH_A, R181. -/
def execPushA (s : State) : Result := s.pushReg .a

/-- PUSH_B, R182. -/
def execPushB (s : State) : Result := s.pushReg .b

/-- PUSH_C, R183. -/
def execPushC (s : State) : Result := s.pushReg .c

/-- PUSH_D, R184. -/
def execPushD (s : State) : Result := s.pushReg .d

/-- POP_A, R185. -/
def execPopA (s : State) : Result := s.popReg .a

/-- POP_B, R186. -/
def execPopB (s : State) : Result := s.popReg .b

/-- POP_C, R187. -/
def execPopC (s : State) : Result := s.popReg .c

/-- POP_D, R188. -/
def execPopD (s : State) : Result := s.popReg .d

end Sys2Proof.Machine
end

