-- ==== Sys2Proof/Machine/Dispatch.lean ====
section
/-! DEFINITION. One instruction executed: one arm per constructor of `Instr`, each the call of its meaning (R81). -/

namespace Sys2Proof.Machine

def exec (i : Instr) (s : State) : Host.Outcome State Fault Refusal :=
  match i with
  | .nop => Sys2Proof.Machine.execNop s
  | .movAB => Sys2Proof.Machine.execMovAB s
  | .movAC => Sys2Proof.Machine.execMovAC s
  | .movAD => Sys2Proof.Machine.execMovAD s
  | .movBA => Sys2Proof.Machine.execMovBA s
  | .movBC => Sys2Proof.Machine.execMovBC s
  | .movBD => Sys2Proof.Machine.execMovBD s
  | .movCA => Sys2Proof.Machine.execMovCA s
  | .movCB => Sys2Proof.Machine.execMovCB s
  | .movCD => Sys2Proof.Machine.execMovCD s
  | .movDA => Sys2Proof.Machine.execMovDA s
  | .movDB => Sys2Proof.Machine.execMovDB s
  | .movDC => Sys2Proof.Machine.execMovDC s
  | .xchgAB => Sys2Proof.Machine.execXchgAB s
  | .movASp => Sys2Proof.Machine.execMovASp s
  | .movSpA => Sys2Proof.Machine.execMovSpA s
  | .incA => Sys2Proof.Machine.execIncA s
  | .incB => Sys2Proof.Machine.execIncB s
  | .incC => Sys2Proof.Machine.execIncC s
  | .incD => Sys2Proof.Machine.execIncD s
  | .decA => Sys2Proof.Machine.execDecA s
  | .decB => Sys2Proof.Machine.execDecB s
  | .decC => Sys2Proof.Machine.execDecC s
  | .decD => Sys2Proof.Machine.execDecD s
  | .addAB => Sys2Proof.Machine.execAddAB s
  | .subAB => Sys2Proof.Machine.execSubAB s
  | .cmpAB => Sys2Proof.Machine.execCmpAB s
  | .andAB => Sys2Proof.Machine.execAndAB s
  | .orAB => Sys2Proof.Machine.execOrAB s
  | .xorAB => Sys2Proof.Machine.execXorAB s
  | .notA => Sys2Proof.Machine.execNotA s
  | .pushA => Sys2Proof.Machine.execPushA s
  | .pushB => Sys2Proof.Machine.execPushB s
  | .pushC => Sys2Proof.Machine.execPushC s
  | .pushD => Sys2Proof.Machine.execPushD s
  | .popA => Sys2Proof.Machine.execPopA s
  | .popB => Sys2Proof.Machine.execPopB s
  | .popC => Sys2Proof.Machine.execPopC s
  | .popD => Sys2Proof.Machine.execPopD s
  | .ret => Sys2Proof.Machine.execRet s
  | .loadA off => Sys2Proof.Machine.execLoadA off s
  | .storeA off => Sys2Proof.Machine.execStoreA off s
  | .loadAByte off => Sys2Proof.Machine.execLoadAByte off s
  | .storeAByte off => Sys2Proof.Machine.execStoreAByte off s
  | .loadInd off => Sys2Proof.Machine.execLoadInd off s
  | .storeInd off => Sys2Proof.Machine.execStoreInd off s
  | .loadIndByte off => Sys2Proof.Machine.execLoadIndByte off s
  | .storeIndByte off => Sys2Proof.Machine.execStoreIndByte off s
  | .loadReg r => Sys2Proof.Machine.execLoadReg r s
  | .storeReg r => Sys2Proof.Machine.execStoreReg r s
  | .loadRegByte r => Sys2Proof.Machine.execLoadRegByte r s
  | .storeRegByte r => Sys2Proof.Machine.execStoreRegByte r s
  | .movAImm imm => Sys2Proof.Machine.execMovAImm imm s
  | .movBImm imm => Sys2Proof.Machine.execMovBImm imm s
  | .movCImm imm => Sys2Proof.Machine.execMovCImm imm s
  | .movDImm imm => Sys2Proof.Machine.execMovDImm imm s
  | .addAImm imm => Sys2Proof.Machine.execAddAImm imm s
  | .subAImm imm => Sys2Proof.Machine.execSubAImm imm s
  | .andAImm imm => Sys2Proof.Machine.execAndAImm imm s
  | .orAImm imm => Sys2Proof.Machine.execOrAImm imm s
  | .xorAImm imm => Sys2Proof.Machine.execXorAImm imm s
  | .cmpAImm imm => Sys2Proof.Machine.execCmpAImm imm s
  | .jmp off => Sys2Proof.Machine.execJmp off s
  | .jz off => Sys2Proof.Machine.execJz off s
  | .jnz off => Sys2Proof.Machine.execJnz off s
  | .jc off => Sys2Proof.Machine.execJc off s
  | .jnc off => Sys2Proof.Machine.execJnc off s
  | .jg off => Sys2Proof.Machine.execJg off s
  | .jge off => Sys2Proof.Machine.execJge off s
  | .jl off => Sys2Proof.Machine.execJl off s
  | .jle off => Sys2Proof.Machine.execJle off s
  | .jul off => Sys2Proof.Machine.execJul off s
  | .juge off => Sys2Proof.Machine.execJuge off s
  | .call off => Sys2Proof.Machine.execCall off s
  | .loadAbs addr => Sys2Proof.Machine.execLoadAbs addr s
  | .storeAbs addr => Sys2Proof.Machine.execStoreAbs addr s
  | .loadAbsByte addr => Sys2Proof.Machine.execLoadAbsByte addr s
  | .storeAbsByte addr => Sys2Proof.Machine.execStoreAbsByte addr s
  | .unitMemRead sel ua => Sys2Proof.Machine.execUnitMemRead sel ua s
  | .unitMemWrite sel ua => Sys2Proof.Machine.execUnitMemWrite sel ua s
  | .unitMemWriteDyn sel => Sys2Proof.Machine.execUnitMemWriteDyn sel s
  | .jmpAbs addr => Sys2Proof.Machine.execJmpAbs addr s
  | .callAbs addr => Sys2Proof.Machine.execCallAbs addr s
  | .mulAB => Sys2Proof.Machine.execMulAB s
  | .divAB => Sys2Proof.Machine.execDivAB s
  | .shl => Sys2Proof.Machine.execShl s
  | .shr => Sys2Proof.Machine.execShr s
  | .loadImm imm => Sys2Proof.Machine.execLoadImm imm s
  | .loadImmB imm => Sys2Proof.Machine.execLoadImmB imm s
  | .scan dst => Sys2Proof.Machine.execScan dst s
  | .scanm src dst => Sys2Proof.Machine.execScanm src dst s
  | .energy sub => Sys2Proof.Machine.execEnergy sub s
  | .assemble sel cmd => Sys2Proof.Machine.execAssemble sel cmd s

end Sys2Proof.Machine
end

