-- ==== Sys2Proof/Machine/Fetch.lean ====
section
/-! DEFINITION. Fetching and decoding at an address (30_encoding.md R61, R80; 10_state.md R34), and placing bytes in
memory from outside (R58, R336). -/

namespace Sys2Proof.Machine

/-- The decoded instruction of one step, a transient snapshot (R34): `instr` is none where the opcode is undefined. -/
structure Decoded where
  address : Nat
  opcode : Byte
  len : Nat
  ins : List Byte
  instr : Option Instr
  deriving DecidableEq, Repr

/-- The snapshot's "undefined" flag (R34, R72). -/
def Decoded.isUndefined (d : Decoded) : Bool := d.instr.isNone

/-- The `n` bytes from `addr` on, each address reduced mod N (R61). -/
def State.fetchBytes (s : State) (addr : Int) : Nat → List Byte
  | 0 => []
  | n + 1 => s.memRead8 addr :: State.fetchBytes s (addr + 1) n

/-- `decodeAt(address)`: a function of memory and the address, which changes nothing (R80). -/
def State.decodeAt (s : State) (addr : Nat) : Decoded :=
  let op := s.memRead8 addr
  let ins := s.fetchBytes addr (lengthOf op)
  { address := addr, opcode := op, len := lengthOf op, ins := ins,
    instr := decodeIns s.params.opcodeMap s.params.absAddrAt ins }

/-- Bytes placed in memory from `addr` on, the last one first, so that where a memory smaller than the bytes makes two
of them share an address the earlier one stands (log 15). -/
def State.loadBytes (s : State) (addr : Int) : List Byte → State
  | [] => s
  | b :: rest => (State.loadBytes s (addr + 1) rest).memWrite8 addr b

/-- The five bytes of an instruction whose bits are `w`, placed at `pc`. -/
def State.placeWord (s : State) (nbits w : Nat) : State := s.loadBytes s.pc (tableBytes nbits w)

end Sys2Proof.Machine
end

