-- ==== Sys2Proof/Machine/Step.lean ====
section
/-! DEFINITION. One step of the core (30_encoding.md R81). -/

namespace Sys2Proof.Machine

/-- One step: the environment's input taken, the instruction at `pc` fetched and decoded, and executed; an undefined
opcode fails with UndefinedInstruction (R72, R81, R306). -/
def step (s : State) : Host.Outcome State Fault Refusal :=
  match (s.beginStep.decodeAt s.pc).instr with
  | none => s.beginStep.fail (.undefinedInstruction (s.beginStep.decodeAt s.pc).opcode) s.beginStep.failCost
  | some i => exec i s.beginStep

/-- `s` with an instruction whose bits are `w` where the next step fetches. It stands for the loading of a program from
outside (R58, R336, log 15). -/
def State.withFetchWord (s : State) (nbits w : Nat) : State := s.placeWord nbits w

end Sys2Proof.Machine
end

