-- ==== Sys2Proof/Machine/Construct.lean ====
section
/-! DEFINITION. Construction, and the `reset()` and `clone()` operations (70_reset_and_hazards.md R330 to R335,
10_state.md R38). -/

namespace Sys2Proof.Machine

/-- The parameters with the memory size replaced. -/
def withSize (p : Params) (n : MemSize) : Params := { p with memSize := n }

/-- Construction with a memory size and, optionally, a backing buffer, which becomes the memory (R330). It refuses a
size outside `[1, 65536]` and a buffer of another length (R331). DESIGN CHOICE (log 23): R331 gives the two failures no
order, and where both hold, a size out of range and a buffer whose length is not `N`, this answers InvalidSize. -/
def construct (p : Params) (n : Int) (buffer : Option (List Byte)) : Except Refusal State :=
  if h : 1 ≤ n ∧ n ≤ 65536 then
    if validBuffer n buffer then
      .ok ((State.resetWith (withSize p ⟨n.toNat, by omega, by omega⟩)).loadBytes 0 (buffer.getD []))
    else .error .sizeMismatch
  else .error .invalidSize

/-- `reset()`: every register, flag and byte of memory 0, `pc = 0`, `sp = N - 1`; `N` is unchanged, and so is all that
is not VMState (R333, R334). -/
def State.resetVm (s : State) : State :=
  { s with
    toVMState := VMState.reset s.params.memSize
    pcInRange := s.params.memSize.pos
    spInRange := Nat.sub_lt s.params.memSize.pos Nat.one_pos
    memInRange := rfl }

/-- `clone()`: a new instance with equal `N`, registers, flags, `pc`, `sp` and memory (R38). A state is a value, so no later
write to either instance is visible in the other. -/
def State.clone (s : State) : State :=
  { State.resetWith s.params with
    toVMState := s.toVMState
    pcInRange := s.pcInRange
    spInRange := s.spInRange
    memInRange := s.memInRange }

end Sys2Proof.Machine
end

