-- ==== Sys2Proof/Machine/RunLoop.lean ====
section
/-! DEFINITION. The run loop of one tick (70_reset_and_hazards.md R340 to R343). Its accumulator and its halt are
`State.used` and `State.halted` (R35). -/

namespace Sys2Proof.Machine

/-- The loop's test: cycles are left and no step of this tick has failed (R340). -/
def State.keepsRunning (s : State) (maxCycles : Int) : Bool := decide ((s.used : Int) < maxCycles) && !s.halted

/-- At most `fuel` turns of the loop (R340). -/
def State.runLoop (maxCycles : Int) : Nat → State → Result
  | 0, s => .next s
  | fuel + 1, s =>
    if s.keepsRunning maxCycles then
      match step s with
      | .next s' => State.runLoop maxCycles fuel s'
      | .fault f => .fault f
      | .refused r => .refused r
    else .next s

/-- `run(vm, maxCycles, ctx)`: one tick (R340). Every step costs at least one cycle, so `maxCycles` turns are enough
(R343); with `maxCycles ≤ 0` no step runs. -/
def State.run (s : State) (maxCycles : Int) : Result := State.runLoop maxCycles maxCycles.toNat s.beginTick

end Sys2Proof.Machine
end

