-- ==== Sys2Proof/Safety.lean ====
section
/-! DEFINITION. What a good state is, and the words the statements use for what an instruction leaves unchanged and for
how a step ends. -/

namespace Sys2Proof.Machine

/-- The invariant of the machine: R33 (`pc` and `sp` in `[0, N)`, every address of memory below `N`), which holds of every
`State` by its own fields, and the canonical form of memory, which the steps keep. -/
abbrev State.Wf (s : State) : Prop :=
  s.pc < s.size ∧ s.sp < s.size ∧ s.mem.wf = true ∧ s.mem.below s.size = true

/-- Every general register but the listed ones is as before. -/
abbrev regsSameExcept (s t : State) (written : List Reg) : Prop :=
  ∀ r : Reg, r ∉ written → t.reg r = s.reg r

/-- Both flags are as before. -/
abbrev flagsSame (s t : State) : Prop := t.z = s.z ∧ t.cy = s.cy

/-- Every byte of memory reads as before. -/
abbrev memSame (s t : State) : Prop := ∀ addr : Int, t.memRead8 addr = s.memRead8 addr

/-- Every byte of memory but those at the listed addresses reads as before. -/
abbrev memSameExcept (s t : State) (written : List Nat) : Prop :=
  ∀ addr : Int, s.wrap addr ∉ written → t.memRead8 addr = s.memRead8 addr

/-- The parameters, the context and the coming inputs are as before, and no external call was made. -/
abbrev envSame (s t : State) : Prop :=
  t.params = s.params ∧ t.ctx = s.ctx ∧ t.inputs = s.inputs ∧ t.calls = s.calls

/-- The step ended as a success that cost `cycles` (R39, R340). -/
abbrev succeeded (s t : State) (cycles : Nat) : Prop :=
  t.result = some (.success cycles) ∧ t.used = s.used + cycles ∧ t.halted = s.halted

/-- The step ended as a failure with `e` at a cost of `cycles`: no architectural state changed, nor anything of the
environment but the record of the calls made, and the unit halts for the rest of the tick (R301, R303, R308, R342). -/
abbrev failedWith (s t : State) (e : ErrorCode) (cycles : Nat) : Prop :=
  t.toVMState = s.toVMState ∧ t.params = s.params ∧ t.ctx = s.ctx ∧ t.inputs = s.inputs ∧
    t.result = some (.failure e cycles) ∧ t.used = s.used + cycles ∧ t.halted = true

/-- The frame of an instruction that writes the listed registers, the flags and `pc`: all else is as before. -/
abbrev onlyRegsAndFlags (s t : State) (written : List Reg) : Prop :=
  regsSameExcept s t written ∧ t.sp = s.sp ∧ memSame s t ∧ envSame s t

/-- The frame of an instruction that writes the listed registers and `pc`: all else is as before. -/
abbrev onlyRegs (s t : State) (written : List Reg) : Prop :=
  onlyRegsAndFlags s t written ∧ flagsSame s t

/-- The context reaches unit `u` by the selector `sel`: the lookup answers `u` and access is granted (R250). -/
abbrev reaches (ctx : UnitContext) (sel : Byte) (u : UnitId) : Prop :=
  ctx.lookup.get sel = .ok (some u) ∧ (ctx.units.get u).canAccess = .ok true

/-- The bytes of a format's snapshot that its instructions read whole (R62, R67): the others are reserved, but for the
low two bits of byte 1 in F3X (R65). -/
def usedBytes (p : AbsAddrAt) : Format → List Nat
  | .f1 | .f3x | .f5n => [0]
  | .f3r | .f3i | .f5i | .f5d => [0, 1, 2]
  | .f4a => match p with
    | .byte1 => [0, 1, 2]
    | .byte2 => [0, 2, 3]
  | .f4u => [0, 1, 2, 3]
  | .f4v | .f5e => [0, 1]
  | .f5m => [0, 1, 2, 3, 4]
  | .f5a => [0, 1, 2]

/-- The ranges of undefined opcodes (R79). -/
def undefinedRanges : List (Nat × Nat) :=
  [(0x1F, 0x1F), (0x29, 0x3F), (0x4C, 0x4F), (0x5A, 0x5F), (0x6C, 0x7F), (0x84, 0x8F), (0x93, 0xAF), (0xB2, 0xBF),
   (0xC4, 0xDF), (0xE2, 0xEF), (0xF4, 0xFF)]

/-- The opcode is in one of those ranges: undefined under the default map (R79). -/
def undefinedOpcode (op : Byte) : Bool :=
  undefinedRanges.any fun r => decide (r.1 ≤ op.toNat) && decide (op.toNat ≤ r.2)

/-- The cost of a success in R346's table; none for the conditional jumps and SCANM, whose cost is not fixed. -/
def tableCost (i : Instr) : Option Nat :=
  match i.category with
  | .nop => some 1
  | .dataMove | .arithmetic => if i.len = 3 then some 2 else some 1
  | .stack | .memory => some 2
  | .jump => match i with
    | .jmp _ | .jmpAbs _ | .call _ | .callAbs _ | .ret => some 3
    | _ => none
  | .unit => some 3
  | .special => match i with
    | .scanm _ _ => none
    | _ => some 5

/-- The instructions that need a UnitContext (R250, R270). -/
def needsContext : Instr → Bool
  | .unitMemRead _ _ | .unitMemWrite _ _ | .unitMemWriteDyn _ | .scan _ | .energy _ | .assemble _ _ => true
  | _ => false

/-- The selector an instruction names (R250, R274). -/
def selectorOf : Instr → Option Byte
  | .unitMemRead sel _ | .unitMemWrite sel _ | .unitMemWriteDyn sel | .assemble sel _ => some sel
  | _ => none

/-- The instructions that raise each error, with what it records: the columns "Raised by" and "Info recorded" of R302. -/
def mayRaise (i : Instr) : ErrorCode → Bool
  | .undefinedInstruction _ => false
  | .divisionByZero => decide (i = .divAB)
  | .requiresUnitContext => needsContext i
  | .unitNotFound sel | .accessDenied sel => decide (selectorOf i = some sel)
  | .noMemoryInterface sel =>
    decide (selectorOf i = some sel) && (decide (i.category = .unit) || decide (i = .assemble sel 0))
  | .memoryReadRejected sel a => decide (i = .unitMemRead sel a) || decide (i = .assemble sel 0)
  | .memoryWriteRejected sel a =>
    decide (i = .unitMemWrite sel a) || decide (i = .unitMemWriteDyn sel) || decide (i = .assemble sel 0)
  | .invalidAssembleCommand cmd => match i with
    | .assemble _ c => decide (c = cmd) && decide (2 < c.toNat)
    | _ => false
  | .energyCommandFailed _ => match i with
    | .energy _ => true
    | _ => false
  | .invalidOperands => false
  | .internalError _ => needsContext i

/-- The context reaches the unit `u`, an Assembler, by the selector `sel` (R274). -/
abbrev reachesAssembler (ctx : UnitContext) (sel : Byte) (u : UnitId) : Prop :=
  reaches ctx sel u ∧ (ctx.units.get u).type = .assembler

/-- The call of `i` that threw `m` (R304): the lookup, the access check or the interface of the unit its selector names,
a read or a write of that interface, the Assembler or its Start, EnergyControl or SelfScan. -/
def threw (i : Instr) (s : State) (ctx : UnitContext) (m : String) : Prop :=
  (∃ sel, selectorOf i = some sel ∧
    (ctx.lookup.get sel = .thrown m ∨
      ∃ u, ctx.lookup.get sel = .ok (some u) ∧
        ((ctx.units.get u).canAccess = .thrown m ∨ (ctx.units.get u).memIf = .thrown m ∨
          (∃ mi, (ctx.units.get u).memIf = .ok (some mi) ∧
            ((∃ a, i = .unitMemRead sel a ∧ mi.read.get a = .thrown m) ∨
              (∃ a, (i = .unitMemWrite sel a ∨ i = .unitMemWriteDyn sel ∧ a = s.b) ∧
                mi.write.get (a, loByte s.a) = .thrown m))) ∨
          (∃ cmd, i = .assemble sel cmd ∧ (ctx.units.get u).assembler = .thrown m) ∨
          (i = .assemble sel 0 ∧ (ctx.units.get u).start = .thrown m)))) ∨
  (∃ sub, i = .energy sub ∧ ctx.energy.get sub = .thrown m) ∨
  (∃ dst, i = .scan dst ∧ ctx.scan = .thrown m)

/-- The cause of each error: the column "Cause" of R302, with the checks that come before it (R250, R274, R306). -/
def causeHolds (i : Instr) (s : State) : ErrorCode → Prop
  | .undefinedInstruction _ => False
  | .divisionByZero => i = .divAB ∧ s.b = 0
  | .requiresUnitContext => needsContext i = true ∧ s.ctx = none
  | .unitNotFound sel => selectorOf i = some sel ∧ ∃ ctx, s.ctx = some ctx ∧
      (ctx.lookup.get sel = .ok none ∨
        ∃ u cmd, i = .assemble sel cmd ∧ ctx.lookup.get sel = .ok (some u) ∧ (ctx.units.get u).type ≠ .assembler)
  | .accessDenied sel => selectorOf i = some sel ∧ ∃ ctx u, s.ctx = some ctx ∧ ctx.lookup.get sel = .ok (some u) ∧
      (ctx.units.get u).canAccess = .ok false
  | .noMemoryInterface sel => selectorOf i = some sel ∧ ∃ ctx u, s.ctx = some ctx ∧ reaches ctx sel u ∧
      (ctx.units.get u).memIf = .ok none
  | .memoryReadRejected sel a => ∃ ctx u mi, s.ctx = some ctx ∧ reaches ctx sel u ∧
      (ctx.units.get u).memIf = .ok (some mi) ∧
      (i = .unitMemRead sel a ∧ mi.read.get a = .ok none ∨
        i = .assemble sel 0 ∧ (ctx.units.get u).start = .ok (.readRejected a))
  | .memoryWriteRejected sel a => ∃ ctx u mi, s.ctx = some ctx ∧ reaches ctx sel u ∧
      (ctx.units.get u).memIf = .ok (some mi) ∧
      ((i = .unitMemWrite sel a ∨ i = .unitMemWriteDyn sel ∧ a = s.b) ∧ mi.write.get (a, loByte s.a) = .ok false ∨
        i = .assemble sel 0 ∧ (ctx.units.get u).start = .ok (.writeRejected a))
  | .invalidAssembleCommand cmd => ∃ sel ctx u, i = .assemble sel cmd ∧ s.ctx = some ctx ∧
      reachesAssembler ctx sel u ∧ 2 < cmd.toNat
  | .energyCommandFailed e => ∃ sub ctx res, i = .energy sub ∧ s.ctx = some ctx ∧ ctx.energy.get sub = .ok res ∧
      res.success = false ∧ res.error = e
  | .invalidOperands => False
  | .internalError m => ∃ ctx, s.ctx = some ctx ∧ threw i s ctx m

/-- The writers of each general register (R22). -/
def mayWriteReg (i : Instr) : Reg → Bool
  | .a => match i with
    | .movAB | .movAC | .movAD | .xchgAB | .movASp | .movAImm _ | .loadImm _ | .incA | .decA | .addAB | .subAB | .andAB
    | .orAB | .xorAB | .notA | .addAImm _ | .subAImm _ | .andAImm _ | .orAImm _ | .xorAImm _ | .mulAB | .divAB | .shl
    | .shr | .popA | .loadA _ | .loadAByte _ | .loadInd _ | .loadIndByte _ | .loadReg _ | .loadRegByte _ | .loadAbs _
    | .loadAbsByte _ | .unitMemRead _ _ | .energy _ | .assemble _ _ => true
    | _ => false
  | .b => match i with
    | .movBA | .movBC | .movBD | .xchgAB | .movBImm _ | .loadImmB _ | .incB | .decB | .divAB | .popB => true
    | _ => false
  | .c => match i with
    | .movCA | .movCB | .movCD | .movCImm _ | .incC | .decC | .popC => true
    | _ => false
  | .d => match i with
    | .movDA | .movDB | .movDC | .movDImm _ | .incD | .decD | .popD => true
    | _ => false

/-- The instructions that write memory (R46). -/
def mayWriteMem : Instr → Bool
  | .pushA | .pushB | .pushC | .pushD | .call _ | .callAbs _ | .storeA _ | .storeAByte _ | .storeInd _ | .storeIndByte _
  | .storeReg _ | .storeRegByte _ | .storeAbs _ | .storeAbsByte _ | .scan _ | .scanm _ _ => true
  | _ => false

/-- The instructions that write `sp` (R26). -/
def mayWriteSp : Instr → Bool
  | .pushA | .pushB | .pushC | .pushD | .popA | .popB | .popC | .popD | .call _ | .callAbs _ | .movSpA => true
  | _ => false

/-- The only readers of the flags: the conditional jumps (R29). -/
def readsFlags : Instr → Bool
  | .jz _ | .jnz _ | .jc _ | .jnc _ | .jg _ | .jge _ | .jl _ | .jle _ | .jul _ | .juge _ => true
  | _ => false

/-! ### The instructions of the statements, one row each -/

/-- The register copies: instruction, opcode, destination, source (R102 to R113). -/
def copyRows : List (Instr × Byte × Reg × Reg) :=
  [(.movAB, 0x01, .a, .b), (.movAC, 0x02, .a, .c), (.movAD, 0x03, .a, .d), (.movBA, 0x04, .b, .a),
   (.movBC, 0x05, .b, .c), (.movBD, 0x06, .b, .d), (.movCA, 0x07, .c, .a), (.movCB, 0x08, .c, .b),
   (.movCD, 0x09, .c, .d), (.movDA, 0x0A, .d, .a), (.movDB, 0x0B, .d, .b), (.movDC, 0x0C, .d, .c)]

/-- The immediate loads: instruction, opcode, destination, length, cycles (R117 to R122). -/
def immediateRows (imm : Word) : List (Instr × Byte × Reg × Nat × Nat) :=
  [(.movAImm imm, 0x50, .a, 3, 2), (.movBImm imm, 0x51, .b, 3, 2),
   (.movCImm imm, 0x52, .c, 3, 2), (.movDImm imm, 0x53, .d, 3, 2), (.loadImm imm, 0xE0, .a, 5, 1),
   (.loadImmB imm, 0xE1, .b, 5, 1)]

/-- The increments: instruction, opcode, register (R132 to R135). -/
def incRows : List (Instr × Byte × Reg) :=
  [(.incA, 0x10, .a), (.incB, 0x11, .b), (.incC, 0x12, .c), (.incD, 0x13, .d)]

/-- The decrements: instruction, opcode, register (R136 to R139). -/
def decRows : List (Instr × Byte × Reg) :=
  [(.decA, 0x14, .a), (.decB, 0x15, .b), (.decC, 0x16, .c), (.decD, 0x17, .d)]

/-- The additions to A: instruction, bytes, addend, length, cycles (R140, R147). -/
def addRows (s : State) (imm : Word) : List (Instr × List Byte × Word × Nat × Nat) :=
  [(.addAB, [0x18], s.b, 1, 1), (.addAImm imm, [0x54, loByte imm, hiByte imm], imm, 3, 2)]

/-- The subtractions and comparisons: instruction, bytes, subtrahend, length, cycles, whether A is written (R141, R142,
R148, R152). -/
def subRows (s : State) (imm : Word) : List (Instr × List Byte × Word × Nat × Nat × Bool) :=
  [(.subAB, [0x19], s.b, 1, 1, true),
   (.subAImm imm, [0x55, loByte imm, hiByte imm], imm, 3, 2, true), (.cmpAB, [0x1A], s.b, 1, 1, false),
   (.cmpAImm imm, [0x59, loByte imm, hiByte imm], imm, 3, 2, false)]

/-- The logic operations: instruction, bytes, the operation on one bit, operand, length, cycles (R143 to R146, R149 to
R151). -/
def logicRows (s : State) (imm : Word) : List (Instr × List Byte × (Bool → Bool → Bool) × Word × Nat × Nat) :=
  [(.andAB, [0x1B], and, s.b, 1, 1), (.orAB, [0x1C], or, s.b, 1, 1),
   (.xorAB, [0x1D], xor, s.b, 1, 1), (.notA, [0x1E], fun x _ => !x, s.b, 1, 1),
   (.andAImm imm, [0x56, loByte imm, hiByte imm], and, imm, 3, 2),
   (.orAImm imm, [0x57, loByte imm, hiByte imm], or, imm, 3, 2),
   (.xorAImm imm, [0x58, loByte imm, hiByte imm], xor, imm, 3, 2)]

/-- The pushes: instruction, opcode, register (R181 to R184). -/
def pushRows : List (Instr × Byte × Reg) :=
  [(.pushA, 0x20, .a), (.pushB, 0x21, .b), (.pushC, 0x22, .c), (.pushD, 0x23, .d)]

/-- The pops: instruction, opcode, register (R185 to R188). -/
def popRows : List (Instr × Byte × Reg) :=
  [(.popA, 0x24, .a), (.popB, 0x25, .b), (.popC, 0x26, .c), (.popD, 0x27, .d)]

/-- The loads: instruction, bytes, effective address, whether a word (R192, R194, R197, R199, R202, R204, R207, R209). -/
def loadRows (s : State) (off addr : Word) (r : Reg) : List (Instr × List Byte × Nat × Bool) :=
  [(.loadA off, [0x40, loByte off, hiByte off], s.relTarget off, true),
   (.loadAByte off, [0x42, loByte off, hiByte off], s.relTarget off, false),
   (.loadInd off, [0x44, loByte off, hiByte off], s.eaIndexed off, true),
   (.loadIndByte off, [0x46, loByte off, hiByte off], s.eaIndexed off, false),
   (.loadReg r, [0x48, r.code, 0], s.eaReg r, true),
   (.loadRegByte r, [0x4A, r.code, 0], s.eaReg r, false),
   (.loadAbs addr, [0x80, loByte addr, hiByte addr, 0], s.absTarget addr, true),
   (.loadAbsByte addr, [0x82, loByte addr, hiByte addr, 0], s.absTarget addr, false)]

/-- The stores: instruction, bytes, effective address, whether a word (R193, R195, R198, R200, R203, R205, R208, R210). -/
def storeRows (s : State) (off addr : Word) (r : Reg) : List (Instr × List Byte × Nat × Bool) :=
  [(.storeA off, [0x41, loByte off, hiByte off], s.relTarget off, true),
   (.storeAByte off, [0x43, loByte off, hiByte off], s.relTarget off, false),
   (.storeInd off, [0x45, loByte off, hiByte off], s.eaIndexed off, true),
   (.storeIndByte off, [0x47, loByte off, hiByte off], s.eaIndexed off, false),
   (.storeReg r, [0x49, r.code, 0], s.eaReg r, true),
   (.storeRegByte r, [0x4B, r.code, 0], s.eaReg r, false),
   (.storeAbs addr, [0x81, loByte addr, hiByte addr, 0], s.absTarget addr, true),
   (.storeAbsByte addr, [0x83, loByte addr, hiByte addr, 0], s.absTarget addr, false)]

/-- The unconditional jumps: instruction, bytes, target (R221, R234, R235). -/
def jumpRows (s : State) (off addr : Word) : List (Instr × List Byte × Int) :=
  [(.jmp off, [0x60, loByte off, hiByte off], (s.pc : Int) + 3 + off.toInt),
   (.jmpAbs addr, [0xB0, loByte addr, hiByte addr, 0], (addr.toNat : Int)), (.ret, [0x28], (s.c.toNat : Int))]

/-- The conditional jumps: instruction, opcode, condition (R222 to R225, R227 to R232). -/
def conditionalRows (s : State) (off : Word) : List (Instr × Byte × Bool) :=
  [(.jz off, 0x61, s.z), (.jnz off, 0x62, !s.z), (.jc off, 0x63, s.cy), (.jnc off, 0x64, !s.cy),
   (.jg off, 0x65, !s.cy && !s.z), (.jge off, 0x66, !s.cy || s.z), (.jl off, 0x67, s.cy && !s.z),
   (.jle off, 0x68, s.cy || s.z), (.jul off, 0x69, s.cy && !s.z), (.juge off, 0x6A, !s.cy || s.z)]

/-- The comparisons of A: instruction, operand (R142, R152). -/
def compareRows (s : State) (v : Word) : List (Instr × Word) :=
  [(.cmpAB, s.b), (.cmpAImm v, v)]

/-- The comparison conditionals: instruction, what the condition means after a comparison of A with `v` (R226). -/
def relationRows (s : State) (off v : Word) : List (Instr × Prop) :=
  [(.jg off, s.a.toNat > v.toNat), (.jge off, s.a.toNat ≥ v.toNat), (.jl off, s.a.toNat < v.toNat),
   (.jle off, s.a.toNat ≤ v.toNat), (.jul off, s.a.toNat < v.toNat), (.juge off, s.a.toNat ≥ v.toNat)]

/-- The calls: instruction, bytes, target (R233, R236). -/
def callRows (s : State) (off addr : Word) : List (Instr × List Byte × Int) :=
  [(.call off, [0x6B, loByte off, hiByte off], (s.pc : Int) + 3 + off.toInt),
   (.callAbs addr, [0xB1, loByte addr, hiByte addr, 0], (addr.toNat : Int))]

/-- The writes to a sibling: instruction, bytes, unit-local address (R254, R255). -/
def unitWriteRows (s : State) (sel : Byte) (ua : Word) : List (Instr × List Byte × Word) :=
  [(.unitMemWrite sel ua, [0x91, sel, loByte ua, hiByte ua], ua),
   (.unitMemWriteDyn sel, [0x92, sel, 0, 0], s.b)]

end Sys2Proof.Machine
end

