-- ==== Sys2Proof/Certificates/Slice0/Obligations.lean ====
section
/-! DEFINITION. The statements for the provers. Where a premise `s.mem.wf = true` stands, it is part of the invariant
`State.Wf`, which `ResetSatisfiesInvariant` and `StepKeepsInvariant` state. -/

open Sys2Proof Sys2Proof.Machine

/-! ### Encoding and decoding -/

/-- Decoding the bytes of an instruction gives it back with the bytes after it, for every instruction, every operand,
every opcode map that has an opcode for it and either layout of the absolute forms (R10, R62 to R71, R75 to R78); under
the default map every instruction has the bytes of `encode`. -/
def Obligations.DecodeOfEncodeIsIdentity : Prop :=
  (∀ (m : OpcodeMap) (p : AbsAddrAt) (i : Instr) (bytes rest : List Byte), encodeWith m p i = some bytes →
    decode m p (bytes ++ rest) = .ok (i, rest)) ∧
  (∀ (m : OpcodeMap) (p : AbsAddrAt) (i : Instr),
    (encodeWith m p i).isSome = true ↔ ∃ op, (op, i.mnemonic) ∈ m.rows) ∧
  ∀ (p : AbsAddrAt) (i : Instr), encodeWith .default p i = some (encode p i)

/-- The length law and the fetch (R60, R61): the length is `[1, 3, 4, 5][op[7:6]]` of the byte at the address, assigned
or not, and byte `k` of the snapshot is the one at `(addr + k) mod N`. -/
def Obligations.FetchFollowsLengthLaw : Prop :=
  ∀ (s : State) (addr : Nat),
    (s.decodeAt addr).opcode = s.mem.read (addr % s.size) ∧
    (s.decodeAt addr).len = [1, 3, 4, 5].getD ((s.decodeAt addr).opcode.toNat / 64) 0 ∧
    (s.decodeAt addr).ins.length = (s.decodeAt addr).len ∧
    (∀ k < (s.decodeAt addr).len, (s.decodeAt addr).ins[k]? = some (s.mem.read ((addr + k) % s.size))) ∧
    ((s.decodeAt addr).opcode.toNat ≤ 0x3F → (s.decodeAt addr).len = 1) ∧
    (0x40 ≤ (s.decodeAt addr).opcode.toNat ∧ (s.decodeAt addr).opcode.toNat ≤ 0x7F → (s.decodeAt addr).len = 3) ∧
    (0x80 ≤ (s.decodeAt addr).opcode.toNat ∧ (s.decodeAt addr).opcode.toNat ≤ 0xBF → (s.decodeAt addr).len = 4) ∧
    (0xC0 ≤ (s.decodeAt addr).opcode.toNat → (s.decodeAt addr).len = 5)

/-- Reserved bytes and the reserved bits of F3X are ignored (R71), under every opcode map: two snapshots of an assigned
opcode that agree on the bytes and bits its format uses decode to the same instruction, of the opcode's mnemonic. -/
def Obligations.ReservedBytesAreIgnored : Prop :=
  ∀ (m : OpcodeMap) (p : AbsAddrAt) (op : Nat) (k : Mnemonic) (ins ins' : List Byte),
    (op, k) ∈ m.rows → ins.length = k.form.format.len → ins'.length = k.form.format.len → (insAt ins 0).toNat = op →
    (∀ n ∈ usedBytes p k.form.format, insAt ins' n = insAt ins n) →
    (k.form.format = .f3x → (insAt ins' 1).toNat % 4 = (insAt ins 1).toNat % 4) →
    ∃ i, decodeIns m p ins = some i ∧ decodeIns m p ins' = some i ∧ i.mnemonic = k

/-- The undefined opcodes (R72, R79): those without an entry in the map, which under the default map are exactly those of
the listed ranges, 163 of the 256; one at `pc` decodes with the length of its range and the undefined flag, and the step
fails with UndefinedInstruction at a cost of 1 cycle, `pc` and everything else of VMState untouched. -/
def Obligations.UndefinedOpcodesFail : Prop :=
  (∀ (m : OpcodeMap) (p : AbsAddrAt) (op : Byte) (rest : List Byte),
    decodeIns m p (op :: rest) = none ↔ m.assigns op = false) ∧
  (∀ op : Byte, OpcodeMap.default.assigns op = false ↔ undefinedOpcode op = true) ∧
  ((List.range 256).filter fun n => undefinedOpcode (BitVec.ofNat 8 n)).length = 163 ∧
  ∀ s : State, s.params.opcodeMap.assigns (s.memRead8 s.pc) = false →
    (s.decodeAt s.pc).isUndefined = true ∧ (s.decodeAt s.pc).len = lengthOf (s.memRead8 s.pc) ∧
    ∃ t, step s = .next t ∧ t.toVMState = s.toVMState ∧
      failedWith s.beginStep t (.undefinedInstruction (s.memRead8 s.pc)) 1 ∧ t.calls = []

/-- A few words of the spec's examples decode to the instructions they stand for (R117, R121, R192, R205, R207, R221,
R236, R253, R255, R271, R272, R274). -/
def Obligations.ExampleWordsDecode : Prop :=
  decodeIns .default .byte1 [0x50, 0x34, 0x12] = some (.movAImm 0x1234) ∧
  decodeIns .default .byte1 [0xE0, 0x05, 0x00, 0x00, 0x00] = some (.loadImm 5) ∧
  decodeIns .default .byte1 [0x40, 0x0D, 0x00] = some (.loadA 0x000D) ∧
  decodeIns .default .byte1 [0x4B, 0xFD, 0x00] = some (.storeRegByte .b) ∧
  decodeIns .default .byte1 [0x80, 0x20, 0x00, 0x00] = some (.loadAbs 0x0020) ∧
  decodeIns .default .byte1 [0x60, 0xF6, 0xFF] = some (.jmp 0xFFF6) ∧
  decodeIns .default .byte1 [0xB1, 0x40, 0x00, 0x00] = some (.callAbs 0x0040) ∧
  decodeIns .default .byte1 [0x90, 0x0A, 0x10, 0x00] = some (.unitMemRead 0x0A 0x0010) ∧
  decodeIns .default .byte1 [0x92, 0x01, 0x00, 0x00] = some (.unitMemWriteDyn 0x01) ∧
  decodeIns .default .byte1 [0xF0, 0xFF, 0x00, 0x00, 0x00] = some (.scan 0x00FF) ∧
  decodeIns .default .byte1 [0xF1, 0x20, 0x00, 0x30, 0x00] = some (.scanm 0x0020 0x0030) ∧
  decodeIns .default .byte1 [0xF3, 0x02, 0x01, 0x00, 0x00] = some (.assemble 0x02 0x01)

/-! ### The step -/

/-- A step runs the decoded instruction (R81): when the bytes at `pc` decode to `i`, the step is `exec` of `i` on
the state with the environment's input taken and no call recorded yet, everything else of it as it was. The queue of
inputs is the model's choice (log 6). -/
def Obligations.StepRunsTheDecodedInstruction : Prop :=
  ∀ (s : State) (i : Instr) (rest : List Byte),
    decode s.params.opcodeMap s.params.absAddrAt (s.fetchBytes s.pc 5) = .ok (i, rest) →
    step s = exec i s.beginStep ∧
    s.beginStep = { s with ctx := s.nextCtx, inputs := s.inputs.tail, calls := [] }

/-- A step runs the instruction whose bytes, under the opcode map and the layout in force, lie in memory from `pc` on, each
at its address mod N (R10, R58, R61, R81). -/
def Obligations.StepRunsTheEncodedInstruction : Prop :=
  ∀ (s : State) (i : Instr) (bytes : List Byte),
    encodeWith s.params.opcodeMap s.params.absAddrAt i = some bytes →
    (∀ k < bytes.length, s.mem.read ((s.pc + k) % s.size) = bytes.getD k 0) →
    step s = exec i s.beginStep

/-- A step never stops (R300): from every state it answers a next state, with a structured result whose cost is
positive and has been added to the run loop's accumulator. That a failure is a next state is the model's reading
(log 4). -/
def Obligations.StepNeverStops : Prop :=
  ∀ s : State, ∃ t, step s = .next t ∧
    ((∃ c, t.result = some (.success c) ∧ 0 < c ∧ t.used = s.used + c ∧ t.halted = s.halted) ∨
     (∃ e c, t.result = some (.failure e c) ∧ 0 < c ∧ t.used = s.used + c ∧ t.halted = true))

/-- Failures are precise (R301): a step that ends in a failure leaves the whole of VMState as it was, and the unit is
halted for the tick (R342). That the context and the queue are then as the environment's input gave them is the model's
choice (log 6). -/
def Obligations.FailedStepChangesNothing : Prop :=
  ∀ (s t : State) (e : ErrorCode) (c : Nat), step s = .next t → t.result = some (.failure e c) →
    t.toVMState = s.toVMState ∧ t.params = s.params ∧ t.ctx = s.nextCtx ∧ t.inputs = s.inputs.tail ∧ t.halted = true

/-- Each error code comes only from its cause and from the instructions of its row of R302, with the information the row
records; InvalidOperands from none, and UndefinedInstruction from an opcode without an entry in the map alone. That
CanAccess, ReadMemory and WriteMemory may throw is the model's reading (log 7), as is the order inside Start (log 11). -/
def Obligations.FailureCodesComeFromTheirCauses : Prop :=
  (∀ (i : Instr) (s t : State) (e : ErrorCode) (c : Nat), exec i s = .next t → t.result = some (.failure e c) →
    mayRaise i e = true ∧ causeHolds i s e) ∧
  ∀ (s t : State) (op : Byte) (c : Nat), step s = .next t → t.result = some (.failure (.undefinedInstruction op) c) →
    op = s.memRead8 s.pc ∧ s.params.opcodeMap.assigns op = false

/-- A failure repeats (R309): when nothing comes from the environment, the step after a failed step, on the next tick,
fails in the same way from the same VMState. That an empty queue leaves every answer as it was, so that every failure is
then a deterministic one in R309's sense, is the model's choice (log 6, log 8). -/
def Obligations.FailureRepeatsOnTheNextTick : Prop :=
  ∀ (s t : State) (e : ErrorCode) (c : Nat), s.inputs = [] → step s = .next t → t.result = some (.failure e c) →
    ∃ u, step t.beginTick = .next u ∧ u.result = some (.failure e c) ∧ u.message = t.message ∧
      u.toVMState = s.toVMState ∧ u.used = c

/-- No instruction can read the run loop's state, nor the outputs of the steps before (R35): two states that differ in
these alone take steps that differ in nothing but the accumulator and the halt. -/
def Obligations.RunLoopStateIsInvisible : Prop :=
  ∀ s s' : State, s'.toVMState = s.toVMState → s'.params = s.params → s'.ctx = s.ctx → s'.inputs = s.inputs →
    ∃ t t', step s = .next t ∧ step s' = .next t' ∧ t'.toVMState = t.toVMState ∧ t'.params = t.params ∧
      t'.ctx = t.ctx ∧ t'.inputs = t.inputs ∧ t'.calls = t.calls ∧ t'.result = t.result ∧ t'.message = t.message

/-! ### Invariants and whole-machine rules -/

/-- The state after reset satisfies the invariant (R33, log 14, and the canonical form of memory, log 16), at every memory
size and under every parameter. That `State.reset` has N = 256 is the model's choice (log 1). -/
def Obligations.ResetSatisfiesInvariant : Prop :=
  State.reset.Wf ∧ ∀ p : Params, (State.resetWith p).Wf

/-- Every step keeps the invariant: `pc` and `sp` in `[0, N)` and memory within `[0, N)`, which every state has by its own
fields (R33, log 14), and memory in canonical form (log 16). -/
def Obligations.StepKeepsInvariant : Prop :=
  ∀ s t : State, s.Wf → step s = .next t → t.Wf

/-- No step changes `N` or another parameter of the instance (R31, R32). -/
def Obligations.StepKeepsParameters : Prop :=
  ∀ s t : State, step s = .next t → t.params = s.params ∧ t.size = s.size

/-- Only ARITHMETIC instructions write `Z` and `Cy`, and only the ten conditional jumps read them (R29): any other
instruction does the same whatever the flags are, to everything, and to the flags too, which a step that writes them
gives the same values. -/
def Obligations.FlagsAreWrittenByArithmeticAndReadByConditionalJumps : Prop :=
  (∀ (i : Instr) (s t : State), exec i s = .next t → i.category ≠ .arithmetic → t.z = s.z ∧ t.cy = s.cy) ∧
  ∀ (i : Instr) (s : State) (z cy : Bool), readsFlags i = false →
    ∃ t t', exec i s = .next t ∧ exec i (s.setFlags z cy) = .next t' ∧ (∀ r, t'.reg r = t.reg r) ∧ t'.pc = t.pc ∧
      t'.sp = t.sp ∧ t'.mem = t.mem ∧ t'.params = t.params ∧ t'.ctx = t.ctx ∧ t'.inputs = t.inputs ∧
      t'.calls = t.calls ∧ t'.result = t.result ∧ t'.message = t.message ∧ t'.used = t.used ∧ t'.halted = t.halted ∧
      ((∃ c, i.category = .arithmetic ∧ t.result = some (.success c)) → t'.z = t.z ∧ t'.cy = t.cy)

/-- The only writers of each general register are those R22 lists. -/
def Obligations.RegistersAreWrittenByTheirWriters : Prop :=
  ∀ (i : Instr) (s t : State) (r : Reg), exec i s = .next t → t.reg r ≠ s.reg r → mayWriteReg i r = true

/-- Memory is written by pushes, calls, stores, SCAN and SCANM alone (R46), `sp` by pushes, pops, calls and MOV_SP_A
alone (R26). -/
def Obligations.MemoryAndStackPointerAreWrittenByTheirWriters : Prop :=
  ∀ (i : Instr) (s t : State), exec i s = .next t →
    (t.mem ≠ s.mem → mayWriteMem i = true) ∧ (t.sp ≠ s.sp → mayWriteSp i = true)

/-- The cycle costs (R303, R346): each success costs what the table gives, a conditional jump 3 or 1 (by whether it
is taken is said of each), SCANM `5 + L`; each failure costs 1, and 3 only under the alternative reading, for UNIT.
Which failures the alternative makes cost 3 is the model's reading (log 13). -/
def Obligations.CyclesFollowTheTable : Prop :=
  ∀ (i : Instr) (s t : State) (c : Nat), exec i s = .next t →
    (t.result = some (.success c) →
      match tableCost i with
      | some n => c = n
      | none => (readsFlags i = true ∧ (c = 3 ∨ c = 1)) ∨
          (readsFlags i = false ∧ 0 < s.scanmLength ∧ s.scanmLength ≤ 256 ∧ c = 5 + s.scanmLength)) ∧
    ∀ e, t.result = some (.failure e c) →
      c = 1 ∨ (c = 3 ∧ s.params.failCycles = .threeForUnit ∧ i.category = .unit)

/-! ### NOP and DATA_MOVE -/

/-- NOP, XCHG_AB, MOV_A_SP and MOV_SP_A (R100, R114 to R116). -/
def Obligations.NopExchangeAndStackPointerTransfer : Prop :=
  ∀ (p : AbsAddrAt) (s : State),
    (encode p .nop = [0x00] ∧ ∃ t, exec .nop s = .next t ∧ t.pc = (s.pc + 1) % s.size ∧ succeeded s t 1 ∧
      onlyRegs s t []) ∧
    (encode p .xchgAB = [0x0D] ∧ ∃ t, exec .xchgAB s = .next t ∧ t.a = s.b ∧ t.b = s.a ∧
      t.pc = (s.pc + 1) % s.size ∧ succeeded s t 1 ∧ onlyRegs s t [.a, .b]) ∧
    (encode p .movASp = [0x0E] ∧ ∃ t, exec .movASp s = .next t ∧ t.a = BitVec.ofNat 16 s.sp ∧
      (s.sp < s.size → t.a.toNat = s.sp) ∧ t.pc = (s.pc + 1) % s.size ∧ succeeded s t 1 ∧ onlyRegs s t [.a]) ∧
    (encode p .movSpA = [0x0F] ∧ ∃ t, exec .movSpA s = .next t ∧ t.sp = s.a.toNat % s.size ∧
      t.pc = (s.pc + 1) % s.size ∧ succeeded s t 1 ∧ regsSameExcept s t [] ∧ flagsSame s t ∧ memSame s t ∧
      envSame s t)

/-- The twelve register copies (R102 to R113): the destination takes the source's value. -/
def Obligations.RegisterCopiesMoveSourceToDestination : Prop :=
  ∀ (p : AbsAddrAt) (s : State) (i : Instr) (op : Byte) (dst src : Reg),
    (i, op, dst, src) ∈ copyRows →
    encode p i = [op] ∧
    ∃ t, exec i s = .next t ∧ t.reg dst = s.reg src ∧ t.pc = (s.pc + 1) % s.size ∧ succeeded s t 1 ∧ onlyRegs s t [dst]

/-- The six immediate loads (R117 to R122): the immediate as it is, little-endian in bytes 1 and 2. -/
def Obligations.ImmediateLoadsWriteTheImmediate : Prop :=
  ∀ (p : AbsAddrAt) (s : State) (imm : Word) (i : Instr) (op : Byte) (dst : Reg) (len cycles : Nat),
    (i, op, dst, len, cycles) ∈ immediateRows imm →
    encode p i = [op, loByte imm, hiByte imm] ++ List.replicate (len - 3) 0 ∧
    ∃ t, exec i s = .next t ∧ t.reg dst = imm ∧ t.pc = (s.pc + len) % s.size ∧ succeeded s t cycles ∧
      onlyRegs s t [dst]

/-! ### ARITHMETIC -/

/-- INC and DEC of each register (R132 to R139): the result mod 2^16, `Z` of it, `Cy` on wrap or borrow. -/
def Obligations.IncrementAndDecrement : Prop :=
  ∀ (p : AbsAddrAt) (s : State) (r : Reg),
    (∀ (i : Instr) (op : Byte), (i, op, r) ∈ incRows →
      encode p i = [op] ∧ ∃ t, exec i s = .next t ∧ (t.reg r).toNat = ((s.reg r).toNat + 1) % 0x10000 ∧
        t.z = decide (((s.reg r).toNat + 1) % 0x10000 = 0) ∧ t.cy = decide ((s.reg r).toNat + 1 > 0xFFFF) ∧
        t.pc = (s.pc + 1) % s.size ∧ succeeded s t 1 ∧ onlyRegsAndFlags s t [r]) ∧
    (∀ (i : Instr) (op : Byte), (i, op, r) ∈ decRows →
      encode p i = [op] ∧ ∃ t, exec i s = .next t ∧
        ((t.reg r).toNat : Int) = (((s.reg r).toNat : Int) - 1) % 0x10000 ∧
        t.z = decide ((s.reg r).toNat = 1) ∧ t.cy = decide ((s.reg r).toNat < 1) ∧
        t.pc = (s.pc + 1) % s.size ∧ succeeded s t 1 ∧ onlyRegsAndFlags s t [r])

/-- ADD_AB and ADD_A_IMM (R140, R147): the sum mod 2^16, `Cy` exactly when the true sum exceeds 0xFFFF. -/
def Obligations.AdditionSetsCarryFromTheTrueSum : Prop :=
  ∀ (p : AbsAddrAt) (s : State) (imm : Word) (i : Instr) (bytes : List Byte) (v : Word) (len cycles : Nat),
    (i, bytes, v, len, cycles) ∈ addRows s imm →
    encode p i = bytes ∧
    ∃ t, exec i s = .next t ∧ t.a.toNat = (s.a.toNat + v.toNat) % 0x10000 ∧
      t.z = decide ((s.a.toNat + v.toNat) % 0x10000 = 0) ∧ t.cy = decide (s.a.toNat + v.toNat > 0xFFFF) ∧
      t.pc = (s.pc + len) % s.size ∧ succeeded s t cycles ∧ onlyRegsAndFlags s t [.a]

/-- SUB and CMP in both forms (R141, R142, R148, R152): `Z` is equality and `Cy` the unsigned borrow; SUB writes the
difference mod 2^16 to A, CMP writes no register. -/
def Obligations.SubtractionAndComparisonSetBorrow : Prop :=
  ∀ (p : AbsAddrAt) (s : State) (imm : Word) (i : Instr) (bytes : List Byte) (v : Word) (len cycles : Nat)
    (writes : Bool),
    (i, bytes, v, len, cycles, writes) ∈ subRows s imm →
    encode p i = bytes ∧
    ∃ t, exec i s = .next t ∧
      (if writes then (t.a.toNat : Int) = ((s.a.toNat : Int) - v.toNat) % 0x10000 else t.a = s.a) ∧
      t.z = decide (s.a = v) ∧ t.cy = decide (s.a.toNat < v.toNat) ∧
      t.pc = (s.pc + len) % s.size ∧ succeeded s t cycles ∧ onlyRegsAndFlags s t [.a]

/-- The logic operations (R143 to R146, R149 to R151): the bitwise result, bit by bit, `Z` of it, `Cy` cleared. -/
def Obligations.LogicWorksBitwiseAndClearsCarry : Prop :=
  ∀ (p : AbsAddrAt) (s : State) (imm : Word) (i : Instr) (bytes : List Byte) (f : Bool → Bool → Bool) (v : Word)
    (len cycles : Nat),
    (i, bytes, f, v, len, cycles) ∈ logicRows s imm →
    encode p i = bytes ∧
    ∃ t, exec i s = .next t ∧ (∀ k < 16, t.a.getLsbD k = f (s.a.getLsbD k) (v.getLsbD k)) ∧
      t.z = decide (t.a = 0) ∧ t.cy = false ∧
      t.pc = (s.pc + len) % s.size ∧ succeeded s t cycles ∧ onlyRegsAndFlags s t [.a]

/-- MUL_AB (R153): the low 16 bits of the product, `Z` of them, `Cy` cleared. -/
def Obligations.MultiplicationKeepsTheLowWord : Prop :=
  ∀ (p : AbsAddrAt) (s : State),
    encode p .mulAB = [0xC0, 0, 0, 0, 0] ∧
    ∃ t, exec .mulAB s = .next t ∧ t.a.toNat = s.a.toNat * s.b.toNat % 0x10000 ∧ t.z = decide (t.a = 0) ∧
      t.cy = false ∧ t.pc = (s.pc + 5) % s.size ∧ succeeded s t 1 ∧ onlyRegsAndFlags s t [.a]

/-- DIV_AB (R154): for B ≠ 0 the quotient and the remainder of the old A by the old B; for B = 0 DivisionByZero, whose
message contains "Division by zero", nothing changed. -/
def Obligations.DivisionGivesQuotientAndRemainderOrFails : Prop :=
  ∀ (p : AbsAddrAt) (h : HexCase) (s : State),
    encode p .divAB = [0xC1, 0, 0, 0, 0] ∧
    (if s.b = 0 then
      ∃ t, exec .divAB s = .next t ∧ failedWith s t .divisionByZero 1 ∧ t.calls = s.calls ∧
        ∃ before behind : String,
          ErrorCode.message h .divisionByZero = some (before ++ "Division by zero" ++ behind)
     else
      ∃ t, exec .divAB s = .next t ∧ s.a.toNat = t.a.toNat * s.b.toNat + t.b.toNat ∧ t.b.toNat < s.b.toNat ∧
        t.z = decide (t.a = 0) ∧ t.cy = false ∧ t.pc = (s.pc + 5) % s.size ∧ succeeded s t 1 ∧
        onlyRegsAndFlags s t [.a, .b])

/-- SHL (R155), with `n` the low five bits of B: bit `k` of the result is bit `k - n` of A and 0 below, `Cy` the last bit
shifted out, for `n = 0` false and for `n ≥ 16` whether A was not 0. -/
def Obligations.ShiftLeftMovesBitsUp : Prop :=
  ∀ (p : AbsAddrAt) (s : State) (n : Nat), n = s.b.toNat % 32 →
    encode p .shl = [0xC2, 0, 0, 0, 0] ∧
    ∃ t, exec .shl s = .next t ∧ (∀ k < 16, t.a.getLsbD k = (decide (n ≤ k) && s.a.getLsbD (k - n))) ∧
      t.z = decide (t.a = 0) ∧
      t.cy = (if n = 0 then false else if n < 16 then s.a.getLsbD (16 - n) else decide (s.a ≠ 0)) ∧
      t.pc = (s.pc + 5) % s.size ∧ succeeded s t 1 ∧ onlyRegsAndFlags s t [.a]

/-- SHR (R156), with `n` the low five bits of B: bit `k` of the result is bit `k + n` of A (0 above bit 15), `Cy` the last
bit shifted out, for `n = 0` false and for `n ≥ 16` whether A was not 0. -/
def Obligations.ShiftRightMovesBitsDown : Prop :=
  ∀ (p : AbsAddrAt) (s : State) (n : Nat), n = s.b.toNat % 32 →
    encode p .shr = [0xC3, 0, 0, 0, 0] ∧
    ∃ t, exec .shr s = .next t ∧ (∀ k < 16, t.a.getLsbD k = s.a.getLsbD (k + n)) ∧
      t.z = decide (t.a = 0) ∧
      t.cy = (if n = 0 then false else if n < 16 then s.a.getLsbD (n - 1) else decide (s.a ≠ 0)) ∧
      t.pc = (s.pc + 5) % s.size ∧ succeeded s t 1 ∧ onlyRegsAndFlags s t [.a]

/-! ### STACK -/

/-- The four pushes (R181 to R184): `sp` moves down by 2 mod N, the register's low byte lies at the new `sp` and its high
byte, written last, at the next address; every other byte is as before. -/
def Obligations.PushStoresTheRegisterBelowTheStack : Prop :=
  ∀ (p : AbsAddrAt) (s : State) (i : Instr) (op : Byte) (r : Reg), s.mem.wf = true →
    (i, op, r) ∈ pushRows →
    encode p i = [op] ∧
    ∃ t, exec i s = .next t ∧ (t.sp : Int) = ((s.sp : Int) - 2) % s.size ∧
      (∀ x : Int, t.memRead8 x = if x % s.size = ((t.sp : Int) + 1) % s.size then hiByte (s.reg r)
        else if x % s.size = t.sp then loByte (s.reg r) else s.memRead8 x) ∧
      t.pc = (s.pc + 1) % s.size ∧ succeeded s t 2 ∧ regsSameExcept s t [] ∧ flagsSame s t ∧ envSame s t

/-- The four pops (R185 to R188): the register takes the word at the old `sp`, `sp` moves up by 2 mod N, memory is as
before. -/
def Obligations.PopLoadsTheWordAtTheStack : Prop :=
  ∀ (p : AbsAddrAt) (s : State) (i : Instr) (op : Byte) (r : Reg),
    (i, op, r) ∈ popRows →
    encode p i = [op] ∧
    ∃ t, exec i s = .next t ∧ t.reg r = u16 (s.memRead8 s.sp) (s.memRead8 ((s.sp : Int) + 1)) ∧
      t.sp = (s.sp + 2) % s.size ∧ t.pc = (s.pc + 1) % s.size ∧ succeeded s t 2 ∧ regsSameExcept s t [r] ∧
      flagsSame s t ∧ memSame s t ∧ envSame s t

/-- A push and then a pop, at `N ≥ 2`: the popped register holds what the pushed one held, and `sp` is back (R43, R47,
R48). -/
def Obligations.PopAfterPushGivesTheValueBack : Prop :=
  ∀ (s : State) (i j : Instr) (op op' : Byte) (r q : Reg), s.Wf → 2 ≤ s.size → (i, op, r) ∈ pushRows →
    (j, op', q) ∈ popRows →
    ∃ t u, exec i s = .next t ∧ exec j t = .next u ∧ u.reg q = s.reg r ∧ u.sp = s.sp

/-! ### MEMORY -/

/-- A word written reads back, at any address and `N ≥ 2`, across the top of memory too; at `N = 1` the high byte
remains and reads twice; every other byte is as before (R42 to R44). -/
def Obligations.WordWriteReadsBack : Prop :=
  ∀ (s : State) (a : Int) (v : Word), s.mem.wf = true →
    (2 ≤ s.size → (s.memWrite16 a v).memRead16 a = v) ∧
    (s.size = 1 → (s.memWrite16 a v).memRead16 a = u16 (hiByte v) (hiByte v)) ∧
    ∀ x : Int, x % s.size ≠ a % s.size → x % s.size ≠ (a + 1) % s.size →
      (s.memWrite16 a v).memRead8 x = s.memRead8 x

/-- The effective addresses of the four modes (R191, R196, R201, R206), the signed offset (R13), and where an absolute
form holds its address under either layout (R67). -/
def Obligations.EffectiveAddressesAreReducedModN : Prop :=
  ∀ (s : State) (off addr : Word) (r : Reg) (b1 b2 b3 : Byte),
    off.toInt = (if off.toNat < 0x8000 then (off.toNat : Int) else (off.toNat : Int) - 0x10000) ∧
    (s.relTarget off : Int) = ((s.pc : Int) + 3 + off.toInt) % s.size ∧
    (s.params.indexedEA = .pcrelPlusB →
      (s.eaIndexed off : Int) = ((s.pc : Int) + 3 + off.toInt + s.b.toNat) % s.size) ∧
    (s.params.indexedEA = .bPlusOff → (s.eaIndexed off : Int) = ((s.b.toNat : Int) + off.toInt) % s.size) ∧
    s.eaReg r = (s.reg r).toNat % s.size ∧
    s.absTarget addr = addr.toNat % s.size ∧
    decodeIns .default .byte1 [0x80, b1, b2, b3] = some (.loadAbs (u16 b1 b2)) ∧
    decodeIns .default .byte2 [0x80, b1, b2, b3] = some (.loadAbs (u16 b2 b3)) ∧
    decodeIns .default .byte1 [0x48, b1, b2] = some (.loadReg ([Reg.a, .b, .c, .d].getD (b1.toNat % 4) .a))

/-- The eight loads (R192, R194, R197, R199, R202, R204, R207, R209): A takes the little-endian word, or the zero-extended
byte, at the effective address of the form; nothing else but `pc` changes. -/
def Obligations.LoadsReadTheEffectiveAddress : Prop :=
  ∀ (s : State) (off addr : Word) (r : Reg) (i : Instr) (bytes : List Byte) (ea : Nat) (word : Bool),
    (i, bytes, ea, word) ∈ loadRows s off addr r →
    encode .byte1 i = bytes ∧
    ∃ t, exec i s = .next t ∧
      (if word then t.a = u16 (s.memRead8 ea) (s.memRead8 ((ea : Int) + 1)) else t.a.toNat = (s.memRead8 ea).toNat) ∧
      t.pc = (s.pc + bytes.length) % s.size ∧ succeeded s t 2 ∧ onlyRegs s t [.a]

/-- The eight stores (R193, R195, R198, R200, R203, R205, R208, R210): the low byte of A lies at the effective address of
the form, and for a word its high byte, written last, at the next address; every other byte is as before. -/
def Obligations.StoresWriteTheEffectiveAddress : Prop :=
  ∀ (s : State) (off addr : Word) (r : Reg) (i : Instr) (bytes : List Byte) (ea : Nat) (word : Bool),
    s.mem.wf = true →
    (i, bytes, ea, word) ∈ storeRows s off addr r →
    encode .byte1 i = bytes ∧
    ∃ t, exec i s = .next t ∧
      (∀ x : Int, t.memRead8 x = if word = true ∧ x % s.size = ((ea : Int) + 1) % s.size then hiByte s.a
        else if x % s.size = ea then loByte s.a else s.memRead8 x) ∧
      t.pc = (s.pc + bytes.length) % s.size ∧ succeeded s t 2 ∧ regsSameExcept s t [] ∧ flagsSame s t ∧
      t.sp = s.sp ∧ envSame s t

/-! ### JUMP -/

/-- JMP, JMP_ABS and RET (R221, R234, R235): `pc` is the target mod N, at 3 cycles; RET takes it from C and leaves memory
and `sp` alone. -/
def Obligations.UnconditionalJumpsSetPc : Prop :=
  ∀ (s : State) (off addr : Word) (i : Instr) (bytes : List Byte) (target : Int),
    (i, bytes, target) ∈ jumpRows s off addr →
    encode .byte1 i = bytes ∧
    ∃ t, exec i s = .next t ∧ (t.pc : Int) = target % s.size ∧ succeeded s t 3 ∧ onlyRegs s t []

/-- The ten conditional jumps (R222 to R225, R227 to R232): taken on the formula of each, to the relative target at 3
cycles; else past the instruction at 1 cycle. -/
def Obligations.ConditionalJumpsFollowTheFlags : Prop :=
  ∀ (p : AbsAddrAt) (s : State) (off : Word) (i : Instr) (op : Byte) (taken : Bool),
    (i, op, taken) ∈ conditionalRows s off →
    encode p i = [op, loByte off, hiByte off] ∧
    ∃ t, exec i s = .next t ∧ onlyRegs s t [] ∧
      (if taken then (t.pc : Int) = ((s.pc : Int) + 3 + off.toInt) % s.size ∧ succeeded s t 3
       else t.pc = (s.pc + 3) % s.size ∧ succeeded s t 1)

/-- After a CMP of A with `v`, each comparison conditional is the unsigned comparison R226 gives it. -/
def Obligations.ComparisonThenConditionalIsUnsigned : Prop :=
  ∀ (s : State) (v off : Word) (cmp i : Instr) (holds : Prop),
    (cmp, v) ∈ compareRows s v →
    (i, holds) ∈ relationRows s off v →
    ∃ t u, exec cmp s = .next t ∧ exec i t = .next u ∧
      (holds → (u.pc : Int) = ((t.pc : Int) + 3 + off.toInt) % s.size ∧ u.result = some (.success 3)) ∧
      (¬ holds → u.pc = (t.pc + 3) % s.size ∧ u.result = some (.success 1))

/-- CALL and CALL_ABS (R233, R236): the post-instruction pc mod N is pushed, little-endian, and `pc` is the target, which
the push does not change even where it overwrites the call; every other byte is as before. -/
def Obligations.CallsPushTheReturnAddress : Prop :=
  ∀ (s : State) (off addr : Word) (i : Instr) (bytes : List Byte) (target : Int) (back : Word), s.mem.wf = true →
    (i, bytes, target) ∈ callRows s off addr →
    back.toNat = (s.pc + bytes.length) % s.size →
    encode .byte1 i = bytes ∧
    ∃ t, exec i s = .next t ∧ (t.pc : Int) = target % s.size ∧ (t.sp : Int) = ((s.sp : Int) - 2) % s.size ∧
      (∀ x : Int, t.memRead8 x = if x % s.size = ((t.sp : Int) + 1) % s.size then hiByte back
        else if x % s.size = t.sp then loByte back else s.memRead8 x) ∧
      succeeded s t 3 ∧ regsSameExcept s t [] ∧ flagsSame s t ∧ envSame s t

/-- `POP_C; RET` returns from a CALL (R237): at `N ≥ 2` the three instructions together go on after the call with `sp` as
before it. -/
def Obligations.PopCThenRetReturnsFromCall : Prop :=
  ∀ (s : State) (off : Word), s.Wf → 2 ≤ s.size →
    ∃ t u v, exec (.call off) s = .next t ∧ exec .popC t = .next u ∧ exec .ret u = .next v ∧
      v.pc = (s.pc + 3) % s.size ∧ v.sp = s.sp ∧ v.c.toNat = v.pc ∧ v.used = s.used + 8

/-! ### UNIT -/

/-- UNIT_MEM_READ succeeds (R250, R253): when the selector reaches a unit whose interface answers a value at `ua`, A
is that value masked to a byte and zero-extended, `ua` is sent as it is, and nothing else but `pc` changes. That the
context's answers are as before is the model's choice (log 8). -/
def Obligations.UnitReadLoadsTheAnsweredByte : Prop :=
  ∀ (p : AbsAddrAt) (s : State) (sel : Byte) (ua : Word) (ctx : UnitContext) (u : UnitId) (mi : MemInterface) (v : Int),
    s.ctx = some ctx → reaches ctx sel u → (ctx.units.get u).memIf = .ok (some mi) → mi.read.get ua = .ok (some v) →
    encode p (.unitMemRead sel ua) = [0x90, sel, loByte ua, hiByte ua] ∧
    ∃ t, exec (.unitMemRead sel ua) s = .next t ∧ (t.a.toNat : Int) = v % 256 ∧ t.pc = (s.pc + 4) % s.size ∧
      succeeded s t 3 ∧ regsSameExcept s t [.a] ∧ flagsSame s t ∧ t.sp = s.sp ∧ t.mem = s.mem ∧ t.params = s.params ∧
      t.ctx = s.ctx ∧ t.inputs = s.inputs ∧
      t.calls = s.calls ++ [.lookup sel, .canAccess ctx.self u, .memIf u, .readMemory u ua]

/-- UNIT_MEM_WRITE and UNIT_MEM_WRITE_DYN succeed (R250, R254, R255): when the selector reaches a unit whose
interface accepts the low 8 bits of A at the address, which is the field or the value of B, exactly that write is
sent, once, and nothing but `pc` changes. That the context's answers are as before, after a write the sibling
accepted, is the model's choice (log 8). -/
def Obligations.UnitWriteSendsTheLowByteOfA : Prop :=
  ∀ (p : AbsAddrAt) (s : State) (sel : Byte) (ua a : Word) (ctx : UnitContext) (u : UnitId) (mi : MemInterface)
    (i : Instr) (bytes : List Byte),
    s.ctx = some ctx → reaches ctx sel u → (ctx.units.get u).memIf = .ok (some mi) →
    (i, bytes, a) ∈ unitWriteRows s sel ua →
    mi.write.get (a, loByte s.a) = .ok true →
    encode p i = bytes ∧
    ∃ t, exec i s = .next t ∧ t.pc = (s.pc + 4) % s.size ∧ succeeded s t 3 ∧ regsSameExcept s t [] ∧ flagsSame s t ∧
      t.sp = s.sp ∧ t.mem = s.mem ∧ t.params = s.params ∧ t.ctx = s.ctx ∧ t.inputs = s.inputs ∧
      t.calls = s.calls ++ [.lookup sel, .canAccess ctx.self u, .memIf u, .writeMemory u a (loByte s.a)]

/-- The checks of the UNIT instructions in their order (R250, R306): the first that fails ends the step with its
error, after the calls up to it and no other, at the cost of a UNIT failure. That the cost of 3 under the
alternative of FAIL_CYCLES holds for all of them is the model's reading (log 13). -/
def Obligations.UnitFailuresComeInOrder : Prop :=
  ∀ (s : State) (sel : Byte) (ua a : Word) (ctx : UnitContext) (u : UnitId) (mi : MemInterface) (i : Instr) (cost : Nat),
    i ∈ ([.unitMemRead sel ua, .unitMemWrite sel ua, .unitMemWriteDyn sel] : List Instr) →
    cost = (if s.params.failCycles = .threeForUnit then 3 else 1) →
    (s.ctx = none → ∃ t, exec i s = .next t ∧ failedWith s t .requiresUnitContext cost ∧ t.calls = s.calls) ∧
    (s.ctx = some ctx → ctx.lookup.get sel = .ok none →
      ∃ t, exec i s = .next t ∧ failedWith s t (.unitNotFound sel) cost ∧ t.calls = s.calls ++ [.lookup sel]) ∧
    (s.ctx = some ctx → ctx.lookup.get sel = .ok (some u) → (ctx.units.get u).canAccess = .ok false →
      ∃ t, exec i s = .next t ∧ failedWith s t (.accessDenied sel) cost ∧
        t.calls = s.calls ++ [.lookup sel, .canAccess ctx.self u]) ∧
    (s.ctx = some ctx → reaches ctx sel u → (ctx.units.get u).memIf = .ok none →
      ∃ t, exec i s = .next t ∧ failedWith s t (.noMemoryInterface sel) cost ∧
        t.calls = s.calls ++ [.lookup sel, .canAccess ctx.self u, .memIf u]) ∧
    (s.ctx = some ctx → reaches ctx sel u → (ctx.units.get u).memIf = .ok (some mi) →
      (mi.read.get ua = .ok none →
        ∃ t, exec (.unitMemRead sel ua) s = .next t ∧ failedWith s t (.memoryReadRejected sel ua) cost ∧
          t.calls = s.calls ++ [.lookup sel, .canAccess ctx.self u, .memIf u, .readMemory u ua]) ∧
      ∀ (j : Instr) (bytes : List Byte), (j, bytes, a) ∈ unitWriteRows s sel ua →
        mi.write.get (a, loByte s.a) = .ok false →
        ∃ t, exec j s = .next t ∧ failedWith s t (.memoryWriteRejected sel a) cost ∧
          t.calls = s.calls ++ [.lookup sel, .canAccess ctx.self u, .memIf u, .writeMemory u a (loByte s.a)])

/-- A call that throws ends the step with InternalError and the call's message, at the cost of a failure, nothing changed
(R304): for every instruction that calls out and every call it makes. That CanAccess, ReadMemory and WriteMemory may throw
too is the model's reading (log 7), and so are the calls inside Start and Stop (log 9, log 11) and which failures cost 3
under the alternative of FAIL_CYCLES (log 13). -/
def Obligations.ThrownCallsBecomeInternalError : Prop :=
  ∀ (s : State) (sel sub : Byte) (ua a dst : Word) (ctx : UnitContext) (u : UnitId) (mi : MemInterface) (idle : Assembler)
    (m : String) (i : Instr) (bytes : List Byte) (cost : Nat), s.ctx = some ctx →
    cost = (if s.params.failCycles = .threeForUnit then 3 else 1) →
    (i ∈ ([.unitMemRead sel ua, .unitMemWrite sel ua, .unitMemWriteDyn sel] : List Instr) →
      (ctx.lookup.get sel = .thrown m → ∃ t, exec i s = .next t ∧ failedWith s t (.internalError m) cost) ∧
      (ctx.lookup.get sel = .ok (some u) → (ctx.units.get u).canAccess = .thrown m →
        ∃ t, exec i s = .next t ∧ failedWith s t (.internalError m) cost) ∧
      (reaches ctx sel u → (ctx.units.get u).memIf = .thrown m →
        ∃ t, exec i s = .next t ∧ failedWith s t (.internalError m) cost)) ∧
    (reaches ctx sel u → (ctx.units.get u).memIf = .ok (some mi) → mi.read.get ua = .thrown m →
      ∃ t, exec (.unitMemRead sel ua) s = .next t ∧ failedWith s t (.internalError m) cost) ∧
    (reaches ctx sel u → (ctx.units.get u).memIf = .ok (some mi) → (i, bytes, a) ∈ unitWriteRows s sel ua →
      mi.write.get (a, loByte s.a) = .thrown m →
      ∃ t, exec i s = .next t ∧ failedWith s t (.internalError m) cost) ∧
    (ctx.scan = .thrown m → ∃ t, exec (.scan dst) s = .next t ∧ failedWith s t (.internalError m) 1) ∧
    (ctx.energy.get sub = .thrown m →
      ∃ t, exec (.energy sub) s = .next t ∧ failedWith s t (.internalError m) 1) ∧
    (ctx.lookup.get sel = .thrown m →
      ∃ t, exec (.assemble sel sub) s = .next t ∧ failedWith s t (.internalError m) 1) ∧
    (ctx.lookup.get sel = .ok (some u) → (ctx.units.get u).type = .assembler →
      (ctx.units.get u).canAccess = .thrown m →
      ∃ t, exec (.assemble sel sub) s = .next t ∧ failedWith s t (.internalError m) 1) ∧
    (reachesAssembler ctx sel u → (ctx.units.get u).assembler = .thrown m → sub.toNat ≤ 2 →
      ∃ t, exec (.assemble sel sub) s = .next t ∧ failedWith s t (.internalError m) 1) ∧
    (reachesAssembler ctx sel u → (ctx.units.get u).assembler = .ok idle → idle.isAssembling = false →
      ((ctx.units.get u).memIf = .thrown m →
        ∃ t, exec (.assemble sel 0) s = .next t ∧ failedWith s t (.internalError m) 1) ∧
      ((ctx.units.get u).memIf = .ok (some mi) → (ctx.units.get u).start = .thrown m →
        ∃ t, exec (.assemble sel 0) s = .next t ∧ failedWith s t (.internalError m) 1))

/-! ### SPECIAL -/

/-- SCAN (R271): without a context it fails, as it does when SelfScan throws; else the bytes SelfScan answers lie at
`dst` onwards, each address mod N, written in order; every byte outside them is as before. That SelfScan makes no
write of its own, so that every other byte is as before, is the model's reading (log 17); that the context's answers
are as before is its choice (log 8). -/
def Obligations.ScanWritesTheSerialisedSpec : Prop :=
  ∀ (p : AbsAddrAt) (s : State) (dst : Word), s.mem.wf = true →
    encode p (.scan dst) = [0xF0, loByte dst, hiByte dst, 0, 0] ∧
    (s.ctx = none → ∃ t, exec (.scan dst) s = .next t ∧ failedWith s t .requiresUnitContext 1 ∧ t.calls = s.calls) ∧
    (∀ (ctx : UnitContext) (m : String), s.ctx = some ctx → ctx.scan = .thrown m →
      ∃ t, exec (.scan dst) s = .next t ∧ failedWith s t (.internalError m) 1 ∧
        t.calls = s.calls ++ [.scan ctx.self s.mem dst]) ∧
    ∀ (ctx : UnitContext) (bs : List Byte), s.ctx = some ctx → ctx.scan = .ok bs →
      ∃ t, exec (.scan dst) s = .next t ∧
        t.mem = ((List.range bs.length).foldl
          (fun (w : State) (k : Nat) => w.memWrite8 ((dst.toNat : Int) + k) (bs.getD k 0)) s).mem ∧
        (bs.length ≤ s.size → ∀ k < bs.length, t.memRead8 ((dst.toNat : Int) + k) = bs.getD k 0) ∧
        (∀ x : Int, (∀ k < bs.length, x % s.size ≠ ((dst.toNat : Int) + k) % s.size) → t.memRead8 x = s.memRead8 x) ∧
        t.pc = (s.pc + 5) % s.size ∧ succeeded s t 5 ∧ regsSameExcept s t [] ∧ flagsSame s t ∧ t.sp = s.sp ∧
        t.params = s.params ∧ t.ctx = s.ctx ∧ t.inputs = s.inputs ∧
        t.calls = s.calls ++ [.scan ctx.self s.mem dst]

/-- SCANM (R272): a forward copy of `L` bytes, each read just before its write, `L` the low byte of C or, for 0, the
parameter's 256 or 1; a source disjoint from the destination arrives whole, and every byte outside the destination is as
before; C is kept, the cost is `5 + L`, and no context is needed. -/
def Obligations.ScanmCopiesForward : Prop :=
  ∀ (p : AbsAddrAt) (s : State) (src dst : Word) (len : Nat), s.mem.wf = true →
    len = (if s.c.toNat % 256 = 0 then (if s.params.scanmZeroLen = .len256 then 256 else 1) else s.c.toNat % 256) →
    encode p (.scanm src dst) = [0xF1, loByte src, hiByte src, loByte dst, hiByte dst] ∧
    ∃ t, exec (.scanm src dst) s = .next t ∧
      t.mem = ((List.range len).foldl
        (fun (w : State) (k : Nat) => w.memWrite8 ((dst.toNat : Int) + k) (w.memRead8 ((src.toNat : Int) + k))) s).mem ∧
      ((∀ j < len, ∀ k < len, ((src.toNat : Int) + j) % s.size ≠ ((dst.toNat : Int) + k) % s.size) → len ≤ s.size →
        ∀ k < len, t.memRead8 ((dst.toNat : Int) + k) = s.memRead8 ((src.toNat : Int) + k)) ∧
      (∀ x : Int, (∀ k < len, x % s.size ≠ ((dst.toNat : Int) + k) % s.size) → t.memRead8 x = s.memRead8 x) ∧
      t.pc = (s.pc + 5) % s.size ∧ succeeded s t (5 + len) ∧ regsSameExcept s t [] ∧ flagsSame s t ∧ t.sp = s.sp ∧
      envSame s t

/-- A SCANM onto the next address repeats the first byte (R272: "the copied bytes repeat"). -/
def Obligations.ScanmOverlapRepeatsTheFirstByte : Prop :=
  ∀ (s : State) (src dst : Word), s.mem.wf = true → dst.toNat = src.toNat + 1 → s.c.toNat % 256 ≠ 0 →
    s.c.toNat % 256 < s.size →
    ∃ t, exec (.scanm src dst) s = .next t ∧
      ∀ k ≤ s.c.toNat % 256, t.memRead8 ((src.toNat : Int) + k) = s.memRead8 src.toNat

/-- ENERGY (R273): without a context it fails; when EnergyControl reports success, A is its value, 0 when it gives
none, masked to 16 bits; when it reports failure the step fails with its error. That the context's answers are as
before is the model's choice (log 8). -/
def Obligations.EnergyWritesTheAnsweredValue : Prop :=
  ∀ (p : AbsAddrAt) (s : State) (sub : Byte),
    encode p (.energy sub) = [0xF2, sub, 0, 0, 0] ∧
    (s.ctx = none → ∃ t, exec (.energy sub) s = .next t ∧ failedWith s t .requiresUnitContext 1 ∧
      t.calls = s.calls) ∧
    ∀ (ctx : UnitContext) (res : EnergyResult), s.ctx = some ctx → ctx.energy.get sub = .ok res →
      (res.success = true → ∃ t, exec (.energy sub) s = .next t ∧ (t.a.toNat : Int) = (res.value.getD 0) % 0x10000 ∧
        t.pc = (s.pc + 5) % s.size ∧ succeeded s t 5 ∧ regsSameExcept s t [.a] ∧ flagsSame s t ∧ t.sp = s.sp ∧
        t.mem = s.mem ∧ t.params = s.params ∧ t.ctx = s.ctx ∧ t.inputs = s.inputs ∧
        t.calls = s.calls ++ [.energy ctx.self sub]) ∧
      (res.success = false → ∃ t, exec (.energy sub) s = .next t ∧
        failedWith s t (.energyCommandFailed res.error) 1 ∧ t.calls = s.calls ++ [.energy ctx.self sub])

/-- ASSEMBLE, the preconditions in their order (R274, R278, R306): context, lookup and type, access, and only then
the command; each failure costs 1 cycle and changes nothing. That the cost is 1 under every value of FAIL_CYCLES is
the model's reading (log 13). -/
def Obligations.AssembleChecksInOrder : Prop :=
  ∀ (p : AbsAddrAt) (s : State) (sel cmd : Byte) (ctx : UnitContext) (u : UnitId),
    encode p (.assemble sel cmd) = [0xF3, sel, cmd, 0, 0] ∧
    (s.ctx = none → ∃ t, exec (.assemble sel cmd) s = .next t ∧ failedWith s t .requiresUnitContext 1) ∧
    (s.ctx = some ctx → ctx.lookup.get sel = .ok none →
      ∃ t, exec (.assemble sel cmd) s = .next t ∧ failedWith s t (.unitNotFound sel) 1) ∧
    (s.ctx = some ctx → ctx.lookup.get sel = .ok (some u) → (ctx.units.get u).type ≠ .assembler →
      ∃ t, exec (.assemble sel cmd) s = .next t ∧ failedWith s t (.unitNotFound sel) 1) ∧
    (s.ctx = some ctx → ctx.lookup.get sel = .ok (some u) → (ctx.units.get u).type = .assembler →
      (ctx.units.get u).canAccess = .ok false →
      ∃ t, exec (.assemble sel cmd) s = .next t ∧ failedWith s t (.accessDenied sel) 1) ∧
    (s.ctx = some ctx → reaches ctx sel u → (ctx.units.get u).type = .assembler → 2 < cmd.toNat →
      ∃ t, exec (.assemble sel cmd) s = .next t ∧ failedWith s t (.invalidAssembleCommand cmd) 1)

/-- ASSEMBLE Query (R277, R279): A is 0 for Idle, 1 for Producing, 2 for Complete; nothing else but `pc` changes, in the
core or in the Assembler. -/
def Obligations.AssembleQueryReportsTheStatus : Prop :=
  ∀ (s : State) (sel : Byte) (ctx : UnitContext) (u : UnitId) (m : Assembler), s.ctx = some ctx → reaches ctx sel u →
    (ctx.units.get u).type = .assembler → (ctx.units.get u).assembler = .ok m →
    ∃ t, exec (.assemble sel 2) s = .next t ∧
      (m.isAssembling = false → t.a = 0) ∧ (m.isAssembling = true → m.progress < 1 → t.a = 1) ∧
      (m.isAssembling = true → 1 ≤ m.progress → t.a = 2) ∧
      t.pc = (s.pc + 5) % s.size ∧ succeeded s t 5 ∧ regsSameExcept s t [.a] ∧ flagsSame s t ∧ t.sp = s.sp ∧
      t.mem = s.mem ∧ t.params = s.params ∧ t.ctx = s.ctx ∧ t.inputs = s.inputs

/-- ASSEMBLE Stop (R276, R279): from any state of the Assembler, A = 1 and the Assembler is Idle, with no progress and no
spec, every other unit as before; and a second Stop gives the same. -/
def Obligations.AssembleStopIsIdempotent : Prop :=
  ∀ (s : State) (sel : Byte) (ctx : UnitContext) (u : UnitId) (m : Assembler), s.ctx = some ctx → reaches ctx sel u →
    (ctx.units.get u).type = .assembler → (ctx.units.get u).assembler = .ok m →
    ∃ t t' ctx' ctx'', exec (.assemble sel 1) s = .next t ∧ exec (.assemble sel 1) t = .next t' ∧
      t.a = 1 ∧ t'.a = 1 ∧ t.ctx = some ctx' ∧ t'.ctx = some ctx'' ∧
      (ctx'.units.get u).assembler = .ok { isAssembling := false, progress := 0, targetSpec := none } ∧
      (∀ v, v ≠ u → ctx'.units.get v = ctx.units.get v) ∧ (∀ v, ctx''.units.get v = ctx'.units.get v) ∧
      t.pc = (s.pc + 5) % s.size ∧ succeeded s t 5 ∧ regsSameExcept s t [.a] ∧ flagsSame s t ∧ t.sp = s.sp ∧
      t.mem = s.mem ∧ t.params = s.params ∧ t.inputs = s.inputs

/-- ASSEMBLE Start (R275, R279): A = 0 and nothing done if the Assembler is producing; else, with an interface and a
Start the Assembler's registers allow, A = 1 and it is Producing with progress 0 and the spec built; a missing
interface or a rejected read or write fails the step and leaves the Assembler as it was. The order of the checks and
the one oracle outcome are the model's reading (log 11), and so is a cost of 1 under every value of FAIL_CYCLES (log
13). -/
def Obligations.AssembleStartStartsAnIdleAssembler : Prop :=
  ∀ (s : State) (sel : Byte) (ctx : UnitContext) (u : UnitId) (m : Assembler), s.ctx = some ctx → reaches ctx sel u →
    (ctx.units.get u).type = .assembler → (ctx.units.get u).assembler = .ok m →
    (m.isAssembling = true → ∃ t, exec (.assemble sel 0) s = .next t ∧ t.a = 0 ∧ t.pc = (s.pc + 5) % s.size ∧
      succeeded s t 5 ∧ regsSameExcept s t [.a] ∧ flagsSame s t ∧ t.sp = s.sp ∧ t.mem = s.mem ∧ t.params = s.params ∧
      t.ctx = s.ctx ∧ t.inputs = s.inputs) ∧
    (m.isAssembling = false → (ctx.units.get u).memIf = .ok none →
      ∃ t, exec (.assemble sel 0) s = .next t ∧ failedWith s t (.noMemoryInterface sel) 1) ∧
    ∀ mi, m.isAssembling = false → (ctx.units.get u).memIf = .ok (some mi) →
      (∀ spec, (ctx.units.get u).start = .ok (.started spec) →
        ∃ t ctx', exec (.assemble sel 0) s = .next t ∧ t.a = 1 ∧ t.ctx = some ctx' ∧
          (ctx'.units.get u).assembler = .ok { isAssembling := true, progress := 0, targetSpec := some spec } ∧
          (∀ v, v ≠ u → ctx'.units.get v = ctx.units.get v) ∧
          t.pc = (s.pc + 5) % s.size ∧ succeeded s t 5 ∧ regsSameExcept s t [.a] ∧ flagsSame s t ∧ t.sp = s.sp ∧
          t.mem = s.mem ∧ t.params = s.params ∧ t.inputs = s.inputs) ∧
      (∀ a, (ctx.units.get u).start = .ok (.readRejected a) →
        ∃ t, exec (.assemble sel 0) s = .next t ∧ failedWith s t (.memoryReadRejected sel a) 1) ∧
      (∀ a, (ctx.units.get u).start = .ok (.writeRejected a) →
        ∃ t, exec (.assemble sel 0) s = .next t ∧ failedWith s t (.memoryWriteRejected sel a) 1)

/-! ### Construction, reset and the run loop -/

/-- Construction (R330, R331): a size outside `[1, 65536]` is refused as InvalidSize, a buffer of another length as
SizeMismatch; else the registers and flags are 0, `pc` 0, `sp` N - 1, and memory holds the buffer, or zeros. That a
size out of range is InvalidSize whatever the buffer is the model's choice of an order (log 23). -/
def Obligations.ConstructionChecksAndInitialises : Prop :=
  ∀ (p : Params) (n : Int) (buffer : Option (List Byte)),
    ((n < 1 ∨ 65536 < n) → construct p n buffer = .error .invalidSize) ∧
    (∀ bytes, 1 ≤ n → n ≤ 65536 → buffer = some bytes → (bytes.length : Int) ≠ n →
      construct p n buffer = .error .sizeMismatch) ∧
    (1 ≤ n → n ≤ 65536 → (∀ bytes, buffer = some bytes → (bytes.length : Int) = n) →
      ∃ s, construct p n buffer = .ok s ∧ (s.size : Int) = n ∧ s.Wf ∧ s.a = 0 ∧ s.b = 0 ∧ s.c = 0 ∧ s.d = 0 ∧
        s.z = false ∧ s.cy = false ∧ s.pc = 0 ∧ (s.sp : Int) = n - 1 ∧
        ∀ k : Nat, (k : Int) < n → s.mem.read k = (buffer.getD []).getD k 0)

/-- `reset()` (R333): every register, flag and byte of memory is 0, `pc` 0 and `sp` N - 1, from any state; `N`, the
parameters and what is not VMState are unchanged (R334). That it leaves the context, the inputs and the accumulator
is the model's choice (log 5, log 6). -/
def Obligations.ResetOperationClearsTheVM : Prop :=
  ∀ s : State, s.resetVm.a = 0 ∧ s.resetVm.b = 0 ∧ s.resetVm.c = 0 ∧ s.resetVm.d = 0 ∧ s.resetVm.z = false ∧
    s.resetVm.cy = false ∧ s.resetVm.pc = 0 ∧ s.resetVm.sp = s.size - 1 ∧ s.resetVm.size = s.size ∧
    (∀ x : Int, s.resetVm.memRead8 x = 0) ∧ s.resetVm.params = s.params ∧ s.resetVm.ctx = s.ctx ∧
    s.resetVm.inputs = s.inputs ∧ s.resetVm.used = s.used

/-- The run loop ends (R340, R342, R343): every tick answers a state, in which the budget is used or a step has failed
and the accumulator counts from 0; with `maxCycles ≤ 0` no step runs. -/
def Obligations.RunEndsByBudgetOrFailure : Prop :=
  ∀ (s : State) (maxCycles : Int), ∃ t, s.run maxCycles = .next t ∧
    (maxCycles ≤ (t.used : Int) ∨ t.halted = true) ∧
    (t.halted = true → ∃ e c, t.result = some (.failure e c)) ∧
    (maxCycles ≤ 0 → t = s.beginTick)

/-- The overshoot of a tick is at most 260 (R341), and a tick with a budget runs at least one step. -/
def Obligations.RunOvershootsByAtMost260 : Prop :=
  ∀ (s t : State) (maxCycles : Int), 0 < maxCycles → s.run maxCycles = .next t →
    0 < t.used ∧ (t.used : Int) ≤ maxCycles + 260

/-- The messages of the failures (R251, R302, R304, R305), under either case of the digits: those that carry a fixed text,
and those that pass a message on. That the fixed text is the whole message is the model's reading (log 18). -/
def Obligations.FailureMessagesCarryTheFixedTexts : Prop :=
  ∀ (h : HexCase) (sel : Byte) (digits : List Char) (e : Option String) (m : String),
    digits = (if h = .upper then "0123456789ABCDEF" else "0123456789abcdef").toList →
    ErrorCode.message h .divisionByZero = some "Division by zero" ∧
    ErrorCode.message h (.unitNotFound sel) =
      some ("Unit not found: 0x" ++ String.ofList [digits.getD (sel.toNat / 16) '?', digits.getD (sel.toNat % 16) '?']) ∧
    ErrorCode.message h (.energyCommandFailed e) = e ∧ ErrorCode.message h (.internalError m) = some m

/-- A failed step reports the message of its error in the `HEX_CASE` of the instance, upper by default (R11, R305): it
contains "Division by zero", or "Unit not found: 0x" and the two digits of the selector in that case. The first equation,
by which the message is exactly `ErrorCode.message`, is the model's reading (log 18); that a success leaves none is its
choice (log 5). -/
def Obligations.FailedStepReportsItsMessage : Prop :=
  (∀ n : MemSize, (Params.defaults n).hexCase = .upper) ∧
  ∀ s t : State, step s = .next t →
    (∀ c, t.result = some (.success c) → t.message = none) ∧
    ∀ e c, t.result = some (.failure e c) →
      t.message = e.message s.params.hexCase ∧
      (e = .divisionByZero → ∃ before behind, t.message = some (before ++ "Division by zero" ++ behind)) ∧
      ∀ (sel : Byte) (digits : List Char), e = .unitNotFound sel →
        digits = (if s.params.hexCase = .upper then "0123456789ABCDEF" else "0123456789abcdef").toList →
        ∃ before behind, t.message = some (before ++ "Unit not found: 0x" ++
          String.ofList [digits.getD (sel.toNat / 16) '?', digits.getD (sel.toNat % 16) '?'] ++ behind)
end

