-- ==== Sys2Proof/Laws/Decode.lean ====
section
/-! SUPPORT. Lemmas of the byte-order helpers and the opcode map. -/

namespace Sys2Proof

/-- A word is its two bytes. -/
@[simp] theorem u16_loByte_hiByte (v : Word) : u16 (loByte v) (hiByte v) = v := by
  apply BitVec.eq_of_getLsbD_eq
  intro i hi
  simp only [u16, loByte, hiByte, BitVec.getLsbD_append, BitVec.getLsbD_extractLsb']
  by_cases h : i < 8
  · simp [h]
  · simp only [h, decide_false, Bool.false_and, if_false]
    have : i - 8 < 8 := by omega
    simp [this, show 8 + (i - 8) = i by omega]

@[simp] theorem loByte_u16 (lo hi : Byte) : loByte (u16 lo hi) = lo := by
  apply BitVec.eq_of_getLsbD_eq
  intro i hi
  simp only [u16, loByte, BitVec.getLsbD_append, BitVec.getLsbD_extractLsb']
  simp [hi]

@[simp] theorem hiByte_u16 (lo hi : Byte) : hiByte (u16 lo hi) = hi := by
  apply BitVec.eq_of_getLsbD_eq
  intro i h
  simp only [u16, hiByte, BitVec.getLsbD_append, BitVec.getLsbD_extractLsb']
  simp [h]

/-- A word as a number: low byte first (R12). -/
theorem u16_toNat (lo hi : Byte) : (u16 lo hi).toNat = lo.toNat + 256 * hi.toNat := by
  have h := BitVec.toNat_append hi lo
  simp only [u16]
  rw [h, Nat.shiftLeft_eq, Nat.mul_comm, ← Nat.two_pow_add_eq_or_of_lt lo.isLt]
  omega

/-- The field of a register selects it (R65, R66). -/
@[simp] theorem regOfField_code (r : Reg) : regOfField r.code = r := by
  cases r <;> decide

/-- The default map assigns 93 opcodes (R79). -/
theorem defaultRows_length : defaultRows.length = 93 := by
  decide

/-- A row of a map respects the length law (R10, R60). -/
theorem OpcodeMap.rowWellFormed_of_mem (m : OpcodeMap) {op : Nat} {k : Mnemonic} (h : (op, k) ∈ m.rows) :
    rowWellFormed op k.form.format = true :=
  List.all_eq_true.1 (Bool.and_eq_true_iff.1 m.valid).1 (op, k) h

/-- No opcode has two rows (R73). -/
theorem OpcodeMap.nodup (m : OpcodeMap) : (m.rows.map Prod.fst).Nodup :=
  of_decide_eq_true (Bool.and_eq_true_iff.1 m.valid).2

/-- An opcode selects the mnemonic of its row. -/
theorem OpcodeMap.mnemonicOf_eq_some (m : OpcodeMap) (op : Byte) (k : Mnemonic) :
    m.mnemonicOf op = some k ↔ (op.toNat, k) ∈ m.rows := by
  unfold OpcodeMap.mnemonicOf
  have h := m.nodup
  generalize m.rows = rows at h ⊢
  induction rows with
  | nil => simp
  | cons row rest ih =>
    obtain ⟨o, q⟩ := row
    simp only [List.map_cons, List.nodup_cons, List.mem_map, not_exists, not_and] at h
    have ih := ih h.2
    by_cases ho : op.toNat = o
    · subst ho
      simp only [List.lookup_cons_self, Option.some.injEq, List.mem_cons, Prod.mk.injEq, true_and]
      exact ⟨fun e => .inl e.symm, fun e => e.elim Eq.symm fun hm => absurd rfl (h.1 (op.toNat, k) hm)⟩
    · have hne : (op.toNat == o) = false := by simpa using ho
      simp [List.lookup, hne, ho, ih]

/-- An opcode selects no mnemonic exactly when the map does not assign it (R72). -/
theorem OpcodeMap.mnemonicOf_eq_none (m : OpcodeMap) (op : Byte) : m.mnemonicOf op = none ↔ m.assigns op = false := by
  unfold OpcodeMap.mnemonicOf OpcodeMap.assigns
  induction m.rows with
  | nil => simp
  | cons row rest ih =>
    obtain ⟨o, q⟩ := row
    by_cases ho : op.toNat = o
    · simp [List.lookup, ho]
    · have hne : (op.toNat == o) = false := by simpa using ho
      have hne' : ¬ o = op.toNat := fun e => ho e.symm
      simpa [List.lookup, hne, hne'] using ih

/-- The opcode of a mnemonic is that of a row of it. -/
theorem OpcodeMap.mem_of_opcodeOf (m : OpcodeMap) {k : Mnemonic} {op : Byte} (h : m.opcodeOf k = some op) :
    (op.toNat, k) ∈ m.rows := by
  unfold OpcodeMap.opcodeOf at h
  obtain ⟨⟨o, q⟩, hf, rfl⟩ := Option.map_eq_some_iff.1 h
  have hk : q = k := by simpa using List.find?_some hf
  have hm := List.mem_of_find?_eq_some hf
  have hr := m.rowWellFormed_of_mem hm
  have ho : o < 256 := by
    unfold rowWellFormed at hr
    revert hr
    cases q.form.format <;> simp [Format.len, opcodeRange] <;> omega
  subst hk
  simpa [BitVec.toNat_ofNat, Nat.mod_eq_of_lt ho] using hm

end Sys2Proof
end

