-- ==== Sys2Proof/Laws/State.lean ====
section
/-! SUPPORT. Lemmas of the state's updates: one per field per update, true by unfolding the update once, so that no later
proof unfolds a record update. A field an update writes has its new value; every other field is as before. -/

namespace Sys2Proof.Machine

/-! ### `setReg` -/

@[simp] theorem State.setReg_a (s : State) (r : Reg) (v : Word) : (s.setReg r v).a = if r = .a then v else s.a := by
  cases r <;> rfl

@[simp] theorem State.setReg_b (s : State) (r : Reg) (v : Word) : (s.setReg r v).b = if r = .b then v else s.b := by
  cases r <;> rfl

@[simp] theorem State.setReg_c (s : State) (r : Reg) (v : Word) : (s.setReg r v).c = if r = .c then v else s.c := by
  cases r <;> rfl

@[simp] theorem State.setReg_d (s : State) (r : Reg) (v : Word) : (s.setReg r v).d = if r = .d then v else s.d := by
  cases r <;> rfl

@[simp] theorem State.setReg_pc (s : State) (r : Reg) (v : Word) : (s.setReg r v).pc = s.pc := by cases r <;> rfl

@[simp] theorem State.setReg_sp (s : State) (r : Reg) (v : Word) : (s.setReg r v).sp = s.sp := by cases r <;> rfl

@[simp] theorem State.setReg_z (s : State) (r : Reg) (v : Word) : (s.setReg r v).z = s.z := by cases r <;> rfl

@[simp] theorem State.setReg_cy (s : State) (r : Reg) (v : Word) : (s.setReg r v).cy = s.cy := by cases r <;> rfl

@[simp] theorem State.setReg_mem (s : State) (r : Reg) (v : Word) : (s.setReg r v).mem = s.mem := by cases r <;> rfl

@[simp] theorem State.setReg_params (s : State) (r : Reg) (v : Word) :
    (s.setReg r v).params = s.params := by cases r <;> rfl

@[simp] theorem State.setReg_ctx (s : State) (r : Reg) (v : Word) : (s.setReg r v).ctx = s.ctx := by cases r <;> rfl

@[simp] theorem State.setReg_inputs (s : State) (r : Reg) (v : Word) :
    (s.setReg r v).inputs = s.inputs := by cases r <;> rfl

@[simp] theorem State.setReg_calls (s : State) (r : Reg) (v : Word) :
    (s.setReg r v).calls = s.calls := by cases r <;> rfl

@[simp] theorem State.setReg_result (s : State) (r : Reg) (v : Word) :
    (s.setReg r v).result = s.result := by cases r <;> rfl

@[simp] theorem State.setReg_used (s : State) (r : Reg) (v : Word) :
    (s.setReg r v).used = s.used := by cases r <;> rfl

@[simp] theorem State.setReg_halted (s : State) (r : Reg) (v : Word) :
    (s.setReg r v).halted = s.halted := by cases r <;> rfl

@[simp] theorem State.setReg_message (s : State) (r : Reg) (v : Word) :
    (s.setReg r v).message = s.message := by cases r <;> rfl

/-! ### `setPc` -/

@[simp] theorem State.setPc_a (s : State) (t : Int) : (s.setPc t).a = s.a := rfl

@[simp] theorem State.setPc_b (s : State) (t : Int) : (s.setPc t).b = s.b := rfl

@[simp] theorem State.setPc_c (s : State) (t : Int) : (s.setPc t).c = s.c := rfl

@[simp] theorem State.setPc_d (s : State) (t : Int) : (s.setPc t).d = s.d := rfl

@[simp] theorem State.setPc_pc (s : State) (t : Int) : (s.setPc t).pc = s.wrap t := rfl

@[simp] theorem State.setPc_sp (s : State) (t : Int) : (s.setPc t).sp = s.sp := rfl

@[simp] theorem State.setPc_z (s : State) (t : Int) : (s.setPc t).z = s.z := rfl

@[simp] theorem State.setPc_cy (s : State) (t : Int) : (s.setPc t).cy = s.cy := rfl

@[simp] theorem State.setPc_mem (s : State) (t : Int) : (s.setPc t).mem = s.mem := rfl

@[simp] theorem State.setPc_params (s : State) (t : Int) : (s.setPc t).params = s.params := rfl

@[simp] theorem State.setPc_ctx (s : State) (t : Int) : (s.setPc t).ctx = s.ctx := rfl

@[simp] theorem State.setPc_inputs (s : State) (t : Int) : (s.setPc t).inputs = s.inputs := rfl

@[simp] theorem State.setPc_calls (s : State) (t : Int) : (s.setPc t).calls = s.calls := rfl

@[simp] theorem State.setPc_result (s : State) (t : Int) : (s.setPc t).result = s.result := rfl

@[simp] theorem State.setPc_used (s : State) (t : Int) : (s.setPc t).used = s.used := rfl

@[simp] theorem State.setPc_halted (s : State) (t : Int) : (s.setPc t).halted = s.halted := rfl

@[simp] theorem State.setPc_message (s : State) (t : Int) : (s.setPc t).message = s.message := rfl

/-! ### `setSp` -/

@[simp] theorem State.setSp_a (s : State) (t : Int) : (s.setSp t).a = s.a := rfl

@[simp] theorem State.setSp_b (s : State) (t : Int) : (s.setSp t).b = s.b := rfl

@[simp] theorem State.setSp_c (s : State) (t : Int) : (s.setSp t).c = s.c := rfl

@[simp] theorem State.setSp_d (s : State) (t : Int) : (s.setSp t).d = s.d := rfl

@[simp] theorem State.setSp_pc (s : State) (t : Int) : (s.setSp t).pc = s.pc := rfl

@[simp] theorem State.setSp_sp (s : State) (t : Int) : (s.setSp t).sp = s.wrap t := rfl

@[simp] theorem State.setSp_z (s : State) (t : Int) : (s.setSp t).z = s.z := rfl

@[simp] theorem State.setSp_cy (s : State) (t : Int) : (s.setSp t).cy = s.cy := rfl

@[simp] theorem State.setSp_mem (s : State) (t : Int) : (s.setSp t).mem = s.mem := rfl

@[simp] theorem State.setSp_params (s : State) (t : Int) : (s.setSp t).params = s.params := rfl

@[simp] theorem State.setSp_ctx (s : State) (t : Int) : (s.setSp t).ctx = s.ctx := rfl

@[simp] theorem State.setSp_inputs (s : State) (t : Int) : (s.setSp t).inputs = s.inputs := rfl

@[simp] theorem State.setSp_calls (s : State) (t : Int) : (s.setSp t).calls = s.calls := rfl

@[simp] theorem State.setSp_result (s : State) (t : Int) : (s.setSp t).result = s.result := rfl

@[simp] theorem State.setSp_used (s : State) (t : Int) : (s.setSp t).used = s.used := rfl

@[simp] theorem State.setSp_halted (s : State) (t : Int) : (s.setSp t).halted = s.halted := rfl

@[simp] theorem State.setSp_message (s : State) (t : Int) : (s.setSp t).message = s.message := rfl

/-! ### `advance` -/

@[simp] theorem State.advance_a (s : State) (n : Nat) : (s.advance n).a = s.a := rfl

@[simp] theorem State.advance_b (s : State) (n : Nat) : (s.advance n).b = s.b := rfl

@[simp] theorem State.advance_c (s : State) (n : Nat) : (s.advance n).c = s.c := rfl

@[simp] theorem State.advance_d (s : State) (n : Nat) : (s.advance n).d = s.d := rfl

@[simp] theorem State.advance_pc (s : State) (n : Nat) : (s.advance n).pc = s.wrap ((s.pc : Int) + n) := rfl

@[simp] theorem State.advance_sp (s : State) (n : Nat) : (s.advance n).sp = s.sp := rfl

@[simp] theorem State.advance_z (s : State) (n : Nat) : (s.advance n).z = s.z := rfl

@[simp] theorem State.advance_cy (s : State) (n : Nat) : (s.advance n).cy = s.cy := rfl

@[simp] theorem State.advance_mem (s : State) (n : Nat) : (s.advance n).mem = s.mem := rfl

@[simp] theorem State.advance_params (s : State) (n : Nat) : (s.advance n).params = s.params := rfl

@[simp] theorem State.advance_ctx (s : State) (n : Nat) : (s.advance n).ctx = s.ctx := rfl

@[simp] theorem State.advance_inputs (s : State) (n : Nat) : (s.advance n).inputs = s.inputs := rfl

@[simp] theorem State.advance_calls (s : State) (n : Nat) : (s.advance n).calls = s.calls := rfl

@[simp] theorem State.advance_result (s : State) (n : Nat) : (s.advance n).result = s.result := rfl

@[simp] theorem State.advance_used (s : State) (n : Nat) : (s.advance n).used = s.used := rfl

@[simp] theorem State.advance_halted (s : State) (n : Nat) : (s.advance n).halted = s.halted := rfl

@[simp] theorem State.advance_message (s : State) (n : Nat) : (s.advance n).message = s.message := rfl

/-! ### `setFlags` -/

@[simp] theorem State.setFlags_a (s : State) (z cy : Bool) : (s.setFlags z cy).a = s.a := rfl

@[simp] theorem State.setFlags_b (s : State) (z cy : Bool) : (s.setFlags z cy).b = s.b := rfl

@[simp] theorem State.setFlags_c (s : State) (z cy : Bool) : (s.setFlags z cy).c = s.c := rfl

@[simp] theorem State.setFlags_d (s : State) (z cy : Bool) : (s.setFlags z cy).d = s.d := rfl

@[simp] theorem State.setFlags_pc (s : State) (z cy : Bool) : (s.setFlags z cy).pc = s.pc := rfl

@[simp] theorem State.setFlags_sp (s : State) (z cy : Bool) : (s.setFlags z cy).sp = s.sp := rfl

@[simp] theorem State.setFlags_z (s : State) (z cy : Bool) : (s.setFlags z cy).z = z := rfl

@[simp] theorem State.setFlags_cy (s : State) (z cy : Bool) : (s.setFlags z cy).cy = cy := rfl

@[simp] theorem State.setFlags_mem (s : State) (z cy : Bool) : (s.setFlags z cy).mem = s.mem := rfl

@[simp] theorem State.setFlags_params (s : State) (z cy : Bool) : (s.setFlags z cy).params = s.params := rfl

@[simp] theorem State.setFlags_ctx (s : State) (z cy : Bool) : (s.setFlags z cy).ctx = s.ctx := rfl

@[simp] theorem State.setFlags_inputs (s : State) (z cy : Bool) : (s.setFlags z cy).inputs = s.inputs := rfl

@[simp] theorem State.setFlags_calls (s : State) (z cy : Bool) : (s.setFlags z cy).calls = s.calls := rfl

@[simp] theorem State.setFlags_result (s : State) (z cy : Bool) : (s.setFlags z cy).result = s.result := rfl

@[simp] theorem State.setFlags_used (s : State) (z cy : Bool) : (s.setFlags z cy).used = s.used := rfl

@[simp] theorem State.setFlags_halted (s : State) (z cy : Bool) : (s.setFlags z cy).halted = s.halted := rfl

@[simp] theorem State.setFlags_message (s : State) (z cy : Bool) : (s.setFlags z cy).message = s.message := rfl

/-! ### `withMem` -/

@[simp] theorem State.withMem_a (s : State) (m : Memory) (h : m.below s.size = true) : (s.withMem m h).a = s.a := rfl

@[simp] theorem State.withMem_b (s : State) (m : Memory) (h : m.below s.size = true) : (s.withMem m h).b = s.b := rfl

@[simp] theorem State.withMem_c (s : State) (m : Memory) (h : m.below s.size = true) : (s.withMem m h).c = s.c := rfl

@[simp] theorem State.withMem_d (s : State) (m : Memory) (h : m.below s.size = true) : (s.withMem m h).d = s.d := rfl

@[simp] theorem State.withMem_pc (s : State) (m : Memory) (h : m.below s.size = true) :
    (s.withMem m h).pc = s.pc := rfl

@[simp] theorem State.withMem_sp (s : State) (m : Memory) (h : m.below s.size = true) :
    (s.withMem m h).sp = s.sp := rfl

@[simp] theorem State.withMem_z (s : State) (m : Memory) (h : m.below s.size = true) : (s.withMem m h).z = s.z := rfl

@[simp] theorem State.withMem_cy (s : State) (m : Memory) (h : m.below s.size = true) :
    (s.withMem m h).cy = s.cy := rfl

@[simp] theorem State.withMem_params (s : State) (m : Memory) (h : m.below s.size = true) :
    (s.withMem m h).params = s.params := rfl

@[simp] theorem State.withMem_ctx (s : State) (m : Memory) (h : m.below s.size = true) :
    (s.withMem m h).ctx = s.ctx := rfl

@[simp] theorem State.withMem_inputs (s : State) (m : Memory) (h : m.below s.size = true) :
    (s.withMem m h).inputs = s.inputs := rfl

@[simp] theorem State.withMem_calls (s : State) (m : Memory) (h : m.below s.size = true) :
    (s.withMem m h).calls = s.calls := rfl

@[simp] theorem State.withMem_result (s : State) (m : Memory) (h : m.below s.size = true) :
    (s.withMem m h).result = s.result := rfl

@[simp] theorem State.withMem_used (s : State) (m : Memory) (h : m.below s.size = true) :
    (s.withMem m h).used = s.used := rfl

@[simp] theorem State.withMem_halted (s : State) (m : Memory) (h : m.below s.size = true) :
    (s.withMem m h).halted = s.halted := rfl

@[simp] theorem State.withMem_message (s : State) (m : Memory) (h : m.below s.size = true) :
    (s.withMem m h).message = s.message := rfl

@[simp] theorem State.withMem_mem (s : State) (m : Memory) (h : m.below s.size = true) :
    (s.withMem m h).mem = m := rfl

@[simp] theorem State.withMem_size (s : State) (m : Memory) (h : m.below s.size = true) :
    (s.withMem m h).size = s.size := rfl

@[simp] theorem State.withMem_wrap (s : State) (m : Memory) (h : m.below s.size = true) (n : Int) :
    (s.withMem m h).wrap n = s.wrap n := rfl

/-! ### `memWrite8` -/

@[simp] theorem State.memWrite8_a (s : State) (addr : Int) (x : Byte) : (s.memWrite8 addr x).a = s.a := rfl

@[simp] theorem State.memWrite8_b (s : State) (addr : Int) (x : Byte) : (s.memWrite8 addr x).b = s.b := rfl

@[simp] theorem State.memWrite8_c (s : State) (addr : Int) (x : Byte) : (s.memWrite8 addr x).c = s.c := rfl

@[simp] theorem State.memWrite8_d (s : State) (addr : Int) (x : Byte) : (s.memWrite8 addr x).d = s.d := rfl

@[simp] theorem State.memWrite8_pc (s : State) (addr : Int) (x : Byte) : (s.memWrite8 addr x).pc = s.pc := rfl

@[simp] theorem State.memWrite8_sp (s : State) (addr : Int) (x : Byte) : (s.memWrite8 addr x).sp = s.sp := rfl

@[simp] theorem State.memWrite8_z (s : State) (addr : Int) (x : Byte) : (s.memWrite8 addr x).z = s.z := rfl

@[simp] theorem State.memWrite8_cy (s : State) (addr : Int) (x : Byte) : (s.memWrite8 addr x).cy = s.cy := rfl

@[simp] theorem State.memWrite8_mem (s : State) (addr : Int) (x : Byte) :
    (s.memWrite8 addr x).mem = s.mem.write (s.wrap addr) x := rfl

@[simp] theorem State.memWrite8_params (s : State) (addr : Int) (x : Byte) :
    (s.memWrite8 addr x).params = s.params := rfl

@[simp] theorem State.memWrite8_ctx (s : State) (addr : Int) (x : Byte) : (s.memWrite8 addr x).ctx = s.ctx := rfl

@[simp] theorem State.memWrite8_inputs (s : State) (addr : Int) (x : Byte) :
    (s.memWrite8 addr x).inputs = s.inputs := rfl

@[simp] theorem State.memWrite8_calls (s : State) (addr : Int) (x : Byte) :
    (s.memWrite8 addr x).calls = s.calls := rfl

@[simp] theorem State.memWrite8_result (s : State) (addr : Int) (x : Byte) :
    (s.memWrite8 addr x).result = s.result := rfl

@[simp] theorem State.memWrite8_used (s : State) (addr : Int) (x : Byte) : (s.memWrite8 addr x).used = s.used := rfl

@[simp] theorem State.memWrite8_halted (s : State) (addr : Int) (x : Byte) :
    (s.memWrite8 addr x).halted = s.halted := rfl

@[simp] theorem State.memWrite8_message (s : State) (addr : Int) (x : Byte) :
    (s.memWrite8 addr x).message = s.message := rfl

/-! ### `memWrite16` -/

@[simp] theorem State.memWrite16_a (s : State) (addr : Int) (x : Word) : (s.memWrite16 addr x).a = s.a := rfl

@[simp] theorem State.memWrite16_b (s : State) (addr : Int) (x : Word) : (s.memWrite16 addr x).b = s.b := rfl

@[simp] theorem State.memWrite16_c (s : State) (addr : Int) (x : Word) : (s.memWrite16 addr x).c = s.c := rfl

@[simp] theorem State.memWrite16_d (s : State) (addr : Int) (x : Word) : (s.memWrite16 addr x).d = s.d := rfl

@[simp] theorem State.memWrite16_pc (s : State) (addr : Int) (x : Word) : (s.memWrite16 addr x).pc = s.pc := rfl

@[simp] theorem State.memWrite16_sp (s : State) (addr : Int) (x : Word) : (s.memWrite16 addr x).sp = s.sp := rfl

@[simp] theorem State.memWrite16_z (s : State) (addr : Int) (x : Word) : (s.memWrite16 addr x).z = s.z := rfl

@[simp] theorem State.memWrite16_cy (s : State) (addr : Int) (x : Word) : (s.memWrite16 addr x).cy = s.cy := rfl

@[simp] theorem State.memWrite16_mem (s : State) (addr : Int) (x : Word) :
    (s.memWrite16 addr x).mem = (s.mem.write (s.wrap addr) (loByte x)).write (s.wrap (addr + 1)) (hiByte x) := rfl

@[simp] theorem State.memWrite16_params (s : State) (addr : Int) (x : Word) :
    (s.memWrite16 addr x).params = s.params := rfl

@[simp] theorem State.memWrite16_ctx (s : State) (addr : Int) (x : Word) : (s.memWrite16 addr x).ctx = s.ctx := rfl

@[simp] theorem State.memWrite16_inputs (s : State) (addr : Int) (x : Word) :
    (s.memWrite16 addr x).inputs = s.inputs := rfl

@[simp] theorem State.memWrite16_calls (s : State) (addr : Int) (x : Word) :
    (s.memWrite16 addr x).calls = s.calls := rfl

@[simp] theorem State.memWrite16_result (s : State) (addr : Int) (x : Word) :
    (s.memWrite16 addr x).result = s.result := rfl

@[simp] theorem State.memWrite16_used (s : State) (addr : Int) (x : Word) : (s.memWrite16 addr x).used = s.used := rfl

@[simp] theorem State.memWrite16_halted (s : State) (addr : Int) (x : Word) :
    (s.memWrite16 addr x).halted = s.halted := rfl

@[simp] theorem State.memWrite16_message (s : State) (addr : Int) (x : Word) :
    (s.memWrite16 addr x).message = s.message := rfl

/-! ### `push16` -/

@[simp] theorem State.push16_a (s : State) (x : Word) : (s.push16 x).a = s.a := rfl

@[simp] theorem State.push16_b (s : State) (x : Word) : (s.push16 x).b = s.b := rfl

@[simp] theorem State.push16_c (s : State) (x : Word) : (s.push16 x).c = s.c := rfl

@[simp] theorem State.push16_d (s : State) (x : Word) : (s.push16 x).d = s.d := rfl

@[simp] theorem State.push16_pc (s : State) (x : Word) : (s.push16 x).pc = s.pc := rfl

@[simp] theorem State.push16_sp (s : State) (x : Word) : (s.push16 x).sp = s.wrap ((s.sp : Int) - 2) := rfl

@[simp] theorem State.push16_z (s : State) (x : Word) : (s.push16 x).z = s.z := rfl

@[simp] theorem State.push16_cy (s : State) (x : Word) : (s.push16 x).cy = s.cy := rfl

@[simp] theorem State.push16_params (s : State) (x : Word) : (s.push16 x).params = s.params := rfl

@[simp] theorem State.push16_ctx (s : State) (x : Word) : (s.push16 x).ctx = s.ctx := rfl

@[simp] theorem State.push16_inputs (s : State) (x : Word) : (s.push16 x).inputs = s.inputs := rfl

@[simp] theorem State.push16_calls (s : State) (x : Word) : (s.push16 x).calls = s.calls := rfl

@[simp] theorem State.push16_result (s : State) (x : Word) : (s.push16 x).result = s.result := rfl

@[simp] theorem State.push16_used (s : State) (x : Word) : (s.push16 x).used = s.used := rfl

@[simp] theorem State.push16_halted (s : State) (x : Word) : (s.push16 x).halted = s.halted := rfl

@[simp] theorem State.push16_message (s : State) (x : Word) : (s.push16 x).message = s.message := rfl

/-! ### `popSp` -/

@[simp] theorem State.popSp_a (s : State) : (s.popSp).a = s.a := rfl

@[simp] theorem State.popSp_b (s : State) : (s.popSp).b = s.b := rfl

@[simp] theorem State.popSp_c (s : State) : (s.popSp).c = s.c := rfl

@[simp] theorem State.popSp_d (s : State) : (s.popSp).d = s.d := rfl

@[simp] theorem State.popSp_pc (s : State) : (s.popSp).pc = s.pc := rfl

@[simp] theorem State.popSp_sp (s : State) : (s.popSp).sp = s.wrap ((s.sp : Int) + 2) := rfl

@[simp] theorem State.popSp_z (s : State) : (s.popSp).z = s.z := rfl

@[simp] theorem State.popSp_cy (s : State) : (s.popSp).cy = s.cy := rfl

@[simp] theorem State.popSp_mem (s : State) : (s.popSp).mem = s.mem := rfl

@[simp] theorem State.popSp_params (s : State) : (s.popSp).params = s.params := rfl

@[simp] theorem State.popSp_ctx (s : State) : (s.popSp).ctx = s.ctx := rfl

@[simp] theorem State.popSp_inputs (s : State) : (s.popSp).inputs = s.inputs := rfl

@[simp] theorem State.popSp_calls (s : State) : (s.popSp).calls = s.calls := rfl

@[simp] theorem State.popSp_result (s : State) : (s.popSp).result = s.result := rfl

@[simp] theorem State.popSp_used (s : State) : (s.popSp).used = s.used := rfl

@[simp] theorem State.popSp_halted (s : State) : (s.popSp).halted = s.halted := rfl

@[simp] theorem State.popSp_message (s : State) : (s.popSp).message = s.message := rfl

/-! ### `call` -/

@[simp] theorem State.call_a (s : State) (k : ExtCall) : (s.call k).a = s.a := rfl

@[simp] theorem State.call_b (s : State) (k : ExtCall) : (s.call k).b = s.b := rfl

@[simp] theorem State.call_c (s : State) (k : ExtCall) : (s.call k).c = s.c := rfl

@[simp] theorem State.call_d (s : State) (k : ExtCall) : (s.call k).d = s.d := rfl

@[simp] theorem State.call_pc (s : State) (k : ExtCall) : (s.call k).pc = s.pc := rfl

@[simp] theorem State.call_sp (s : State) (k : ExtCall) : (s.call k).sp = s.sp := rfl

@[simp] theorem State.call_z (s : State) (k : ExtCall) : (s.call k).z = s.z := rfl

@[simp] theorem State.call_cy (s : State) (k : ExtCall) : (s.call k).cy = s.cy := rfl

@[simp] theorem State.call_mem (s : State) (k : ExtCall) : (s.call k).mem = s.mem := rfl

@[simp] theorem State.call_params (s : State) (k : ExtCall) : (s.call k).params = s.params := rfl

@[simp] theorem State.call_ctx (s : State) (k : ExtCall) : (s.call k).ctx = s.ctx := rfl

@[simp] theorem State.call_inputs (s : State) (k : ExtCall) : (s.call k).inputs = s.inputs := rfl

@[simp] theorem State.call_calls (s : State) (k : ExtCall) : (s.call k).calls = s.calls ++ [k] := rfl

@[simp] theorem State.call_result (s : State) (k : ExtCall) : (s.call k).result = s.result := rfl

@[simp] theorem State.call_used (s : State) (k : ExtCall) : (s.call k).used = s.used := rfl

@[simp] theorem State.call_halted (s : State) (k : ExtCall) : (s.call k).halted = s.halted := rfl

@[simp] theorem State.call_message (s : State) (k : ExtCall) : (s.call k).message = s.message := rfl

/-! ### `setAssembler` -/

@[simp] theorem State.setAssembler_a (s : State) (k : UnitContext) (u : UnitId) (m : Assembler) :
    (s.setAssembler k u m).a = s.a := rfl

@[simp] theorem State.setAssembler_b (s : State) (k : UnitContext) (u : UnitId) (m : Assembler) :
    (s.setAssembler k u m).b = s.b := rfl

@[simp] theorem State.setAssembler_c (s : State) (k : UnitContext) (u : UnitId) (m : Assembler) :
    (s.setAssembler k u m).c = s.c := rfl

@[simp] theorem State.setAssembler_d (s : State) (k : UnitContext) (u : UnitId) (m : Assembler) :
    (s.setAssembler k u m).d = s.d := rfl

@[simp] theorem State.setAssembler_pc (s : State) (k : UnitContext) (u : UnitId) (m : Assembler) :
    (s.setAssembler k u m).pc = s.pc := rfl

@[simp] theorem State.setAssembler_sp (s : State) (k : UnitContext) (u : UnitId) (m : Assembler) :
    (s.setAssembler k u m).sp = s.sp := rfl

@[simp] theorem State.setAssembler_z (s : State) (k : UnitContext) (u : UnitId) (m : Assembler) :
    (s.setAssembler k u m).z = s.z := rfl

@[simp] theorem State.setAssembler_cy (s : State) (k : UnitContext) (u : UnitId) (m : Assembler) :
    (s.setAssembler k u m).cy = s.cy := rfl

@[simp] theorem State.setAssembler_mem (s : State) (k : UnitContext) (u : UnitId) (m : Assembler) :
    (s.setAssembler k u m).mem = s.mem := rfl

@[simp] theorem State.setAssembler_params (s : State) (k : UnitContext) (u : UnitId) (m : Assembler) :
    (s.setAssembler k u m).params = s.params := rfl

@[simp] theorem State.setAssembler_ctx (s : State) (k : UnitContext) (u : UnitId) (m : Assembler) :
    (s.setAssembler k u m).ctx = some (k.setAssembler u m) := rfl

@[simp] theorem State.setAssembler_inputs (s : State) (k : UnitContext) (u : UnitId) (m : Assembler) :
    (s.setAssembler k u m).inputs = s.inputs := rfl

@[simp] theorem State.setAssembler_calls (s : State) (k : UnitContext) (u : UnitId) (m : Assembler) :
    (s.setAssembler k u m).calls = s.calls := rfl

@[simp] theorem State.setAssembler_result (s : State) (k : UnitContext) (u : UnitId) (m : Assembler) :
    (s.setAssembler k u m).result = s.result := rfl

@[simp] theorem State.setAssembler_used (s : State) (k : UnitContext) (u : UnitId) (m : Assembler) :
    (s.setAssembler k u m).used = s.used := rfl

@[simp] theorem State.setAssembler_halted (s : State) (k : UnitContext) (u : UnitId) (m : Assembler) :
    (s.setAssembler k u m).halted = s.halted := rfl

@[simp] theorem State.setAssembler_message (s : State) (k : UnitContext) (u : UnitId) (m : Assembler) :
    (s.setAssembler k u m).message = s.message := rfl

/-! ### `beginStep` -/

@[simp] theorem State.beginStep_a (s : State) : (s.beginStep).a = s.a := rfl

@[simp] theorem State.beginStep_b (s : State) : (s.beginStep).b = s.b := rfl

@[simp] theorem State.beginStep_c (s : State) : (s.beginStep).c = s.c := rfl

@[simp] theorem State.beginStep_d (s : State) : (s.beginStep).d = s.d := rfl

@[simp] theorem State.beginStep_pc (s : State) : (s.beginStep).pc = s.pc := rfl

@[simp] theorem State.beginStep_sp (s : State) : (s.beginStep).sp = s.sp := rfl

@[simp] theorem State.beginStep_z (s : State) : (s.beginStep).z = s.z := rfl

@[simp] theorem State.beginStep_cy (s : State) : (s.beginStep).cy = s.cy := rfl

@[simp] theorem State.beginStep_mem (s : State) : (s.beginStep).mem = s.mem := rfl

@[simp] theorem State.beginStep_params (s : State) : (s.beginStep).params = s.params := rfl

@[simp] theorem State.beginStep_ctx (s : State) : (s.beginStep).ctx = s.nextCtx := rfl

@[simp] theorem State.beginStep_inputs (s : State) : (s.beginStep).inputs = s.inputs.tail := rfl

@[simp] theorem State.beginStep_calls (s : State) : (s.beginStep).calls = [] := rfl

@[simp] theorem State.beginStep_result (s : State) : (s.beginStep).result = s.result := rfl

@[simp] theorem State.beginStep_used (s : State) : (s.beginStep).used = s.used := rfl

@[simp] theorem State.beginStep_halted (s : State) : (s.beginStep).halted = s.halted := rfl

@[simp] theorem State.beginStep_message (s : State) : (s.beginStep).message = s.message := rfl

/-! ### `beginTick` -/

@[simp] theorem State.beginTick_a (s : State) : (s.beginTick).a = s.a := rfl

@[simp] theorem State.beginTick_b (s : State) : (s.beginTick).b = s.b := rfl

@[simp] theorem State.beginTick_c (s : State) : (s.beginTick).c = s.c := rfl

@[simp] theorem State.beginTick_d (s : State) : (s.beginTick).d = s.d := rfl

@[simp] theorem State.beginTick_pc (s : State) : (s.beginTick).pc = s.pc := rfl

@[simp] theorem State.beginTick_sp (s : State) : (s.beginTick).sp = s.sp := rfl

@[simp] theorem State.beginTick_z (s : State) : (s.beginTick).z = s.z := rfl

@[simp] theorem State.beginTick_cy (s : State) : (s.beginTick).cy = s.cy := rfl

@[simp] theorem State.beginTick_mem (s : State) : (s.beginTick).mem = s.mem := rfl

@[simp] theorem State.beginTick_params (s : State) : (s.beginTick).params = s.params := rfl

@[simp] theorem State.beginTick_ctx (s : State) : (s.beginTick).ctx = s.ctx := rfl

@[simp] theorem State.beginTick_inputs (s : State) : (s.beginTick).inputs = s.inputs := rfl

@[simp] theorem State.beginTick_calls (s : State) : (s.beginTick).calls = s.calls := rfl

@[simp] theorem State.beginTick_result (s : State) : (s.beginTick).result = s.result := rfl

@[simp] theorem State.beginTick_used (s : State) : (s.beginTick).used = 0 := rfl

@[simp] theorem State.beginTick_halted (s : State) : (s.beginTick).halted = false := rfl

@[simp] theorem State.beginTick_message (s : State) : (s.beginTick).message = s.message := rfl

/-! ### Registers, size and address reduction -/

@[simp] theorem State.reg_a (s : State) : s.reg .a = s.a := rfl

@[simp] theorem State.reg_b (s : State) : s.reg .b = s.b := rfl

@[simp] theorem State.reg_c (s : State) : s.reg .c = s.c := rfl

@[simp] theorem State.reg_d (s : State) : s.reg .d = s.d := rfl

/-- A register written reads as its new value, the others as before. -/
theorem State.reg_setReg (s : State) (r q : Reg) (v : Word) :
    (s.setReg r v).reg q = if q = r then v else s.reg q := by
  cases r <;> cases q <;> rfl

/-- The registers are those of the four fields. -/
theorem State.reg_congr {s t : State} (ha : t.a = s.a) (hb : t.b = s.b) (hc : t.c = s.c) (hd : t.d = s.d) (r : Reg) :
    t.reg r = s.reg r := by
  cases r <;> simpa

/-- `N` depends on the parameters alone. -/
theorem State.size_congr {s t : State} (h : t.params = s.params) : t.size = s.size := by
  simp [State.size, h]

/-- Address reduction depends on the parameters alone. -/
theorem State.wrap_congr {s t : State} (h : t.params = s.params) (x : Int) : t.wrap x = s.wrap x := by
  simp [State.wrap, State.size_congr h]

/-- A byte read depends on the memory and the parameters alone. -/
theorem State.memRead8_congr {s t : State} (hm : t.mem = s.mem) (h : t.params = s.params) (x : Int) :
    t.memRead8 x = s.memRead8 x := by
  simp [State.memRead8, State.wrap_congr h, hm]

theorem State.size_pos (s : State) : 0 < s.size := s.params.memSize.pos

theorem State.size_le (s : State) : s.size ≤ 65536 := s.params.memSize.le

/-- As an integer, a reduced address is the mathematical modulus (R12). -/
theorem State.wrap_cast (s : State) (x : Int) : ((s.wrap x : Nat) : Int) = x % s.size := by
  have hp : (0 : Int) < s.size := by exact_mod_cast s.size_pos
  exact Int.toNat_of_nonneg (Int.emod_nonneg x (by omega))

/-- An address in range is its own reduction. -/
theorem State.wrap_of_lt (s : State) {n : Nat} (h : n < s.size) : s.wrap n = n := by
  have : ((n : Int) % s.size).toNat = n := by
    rw [Int.emod_eq_of_lt (by omega) (by exact_mod_cast h)]
    simp
  exact this

/-- Reducing twice is reducing once. -/
@[simp] theorem State.wrap_wrap (s : State) (x : Int) : s.wrap (s.wrap x : Nat) = s.wrap x :=
  s.wrap_of_lt (s.wrap_lt x)

/-- Reduction of a sum may reduce a summand first. -/
theorem State.wrap_wrap_add (s : State) (x y : Int) : s.wrap ((s.wrap x : Nat) + y) = s.wrap (x + y) := by
  have h : (((s.wrap x : Nat) : Int) + y) % s.size = (x + y) % s.size := by
    rw [s.wrap_cast, Int.emod_add_emod]
  exact congrArg Int.toNat h

@[simp] theorem State.setReg_wrap (s : State) (r : Reg) (v : Word) (n : Int) : (s.setReg r v).wrap n = s.wrap n :=
  State.wrap_congr (by simp) n

@[simp] theorem State.setReg_size (s : State) (r : Reg) (v : Word) : (s.setReg r v).size = s.size :=
  State.size_congr (by simp)

@[simp] theorem State.setReg_memRead8 (s : State) (r : Reg) (v : Word) (n : Int) : (s.setReg r v).memRead8 n = s.memRead8 n :=
  State.memRead8_congr (by simp) (by simp) n

@[simp] theorem State.setPc_wrap (s : State) (t : Int) (n : Int) : (s.setPc t).wrap n = s.wrap n :=
  State.wrap_congr (by simp) n

@[simp] theorem State.setPc_size (s : State) (t : Int) : (s.setPc t).size = s.size :=
  State.size_congr (by simp)

@[simp] theorem State.setPc_memRead8 (s : State) (t : Int) (n : Int) : (s.setPc t).memRead8 n = s.memRead8 n :=
  State.memRead8_congr (by simp) (by simp) n

@[simp] theorem State.setPc_reg (s : State) (t : Int) (q : Reg) : (s.setPc t).reg q = s.reg q :=
  State.reg_congr (by simp) (by simp) (by simp) (by simp) q

@[simp] theorem State.setSp_wrap (s : State) (t : Int) (n : Int) : (s.setSp t).wrap n = s.wrap n :=
  State.wrap_congr (by simp) n

@[simp] theorem State.setSp_size (s : State) (t : Int) : (s.setSp t).size = s.size :=
  State.size_congr (by simp)

@[simp] theorem State.setSp_memRead8 (s : State) (t : Int) (n : Int) : (s.setSp t).memRead8 n = s.memRead8 n :=
  State.memRead8_congr (by simp) (by simp) n

@[simp] theorem State.setSp_reg (s : State) (t : Int) (q : Reg) : (s.setSp t).reg q = s.reg q :=
  State.reg_congr (by simp) (by simp) (by simp) (by simp) q

@[simp] theorem State.advance_wrap (s : State) (n : Nat) (i : Int) : (s.advance n).wrap i = s.wrap i :=
  State.wrap_congr (by simp) i

@[simp] theorem State.advance_size (s : State) (n : Nat) : (s.advance n).size = s.size :=
  State.size_congr (by simp)

@[simp] theorem State.advance_memRead8 (s : State) (n : Nat) (i : Int) : (s.advance n).memRead8 i = s.memRead8 i :=
  State.memRead8_congr (by simp) (by simp) i

@[simp] theorem State.advance_reg (s : State) (n : Nat) (q : Reg) : (s.advance n).reg q = s.reg q :=
  State.reg_congr (by simp) (by simp) (by simp) (by simp) q

@[simp] theorem State.setFlags_wrap (s : State) (z cy : Bool) (n : Int) : (s.setFlags z cy).wrap n = s.wrap n :=
  State.wrap_congr (by simp) n

@[simp] theorem State.setFlags_size (s : State) (z cy : Bool) : (s.setFlags z cy).size = s.size :=
  State.size_congr (by simp)

@[simp] theorem State.setFlags_memRead8 (s : State) (z cy : Bool) (n : Int) : (s.setFlags z cy).memRead8 n = s.memRead8 n :=
  State.memRead8_congr (by simp) (by simp) n

@[simp] theorem State.setFlags_reg (s : State) (z cy : Bool) (q : Reg) : (s.setFlags z cy).reg q = s.reg q :=
  State.reg_congr (by simp) (by simp) (by simp) (by simp) q

@[simp] theorem State.memWrite8_wrap (s : State) (addr : Int) (x : Byte) (n : Int) : (s.memWrite8 addr x).wrap n = s.wrap n :=
  State.wrap_congr (by simp) n

@[simp] theorem State.memWrite8_size (s : State) (addr : Int) (x : Byte) : (s.memWrite8 addr x).size = s.size :=
  State.size_congr (by simp)

@[simp] theorem State.memWrite8_reg (s : State) (addr : Int) (x : Byte) (q : Reg) : (s.memWrite8 addr x).reg q = s.reg q :=
  State.reg_congr (by simp) (by simp) (by simp) (by simp) q

@[simp] theorem State.memWrite16_wrap (s : State) (addr : Int) (x : Word) (n : Int) : (s.memWrite16 addr x).wrap n = s.wrap n :=
  State.wrap_congr (by simp) n

@[simp] theorem State.memWrite16_size (s : State) (addr : Int) (x : Word) : (s.memWrite16 addr x).size = s.size :=
  State.size_congr (by simp)

@[simp] theorem State.memWrite16_reg (s : State) (addr : Int) (x : Word) (q : Reg) : (s.memWrite16 addr x).reg q = s.reg q :=
  State.reg_congr (by simp) (by simp) (by simp) (by simp) q

@[simp] theorem State.push16_wrap (s : State) (x : Word) (n : Int) : (s.push16 x).wrap n = s.wrap n :=
  State.wrap_congr (by simp) n

@[simp] theorem State.push16_size (s : State) (x : Word) : (s.push16 x).size = s.size :=
  State.size_congr (by simp)

@[simp] theorem State.push16_reg (s : State) (x : Word) (q : Reg) : (s.push16 x).reg q = s.reg q :=
  State.reg_congr (by simp) (by simp) (by simp) (by simp) q

@[simp] theorem State.popSp_wrap (s : State) (n : Int) : (s.popSp).wrap n = s.wrap n :=
  State.wrap_congr (by simp) n

@[simp] theorem State.popSp_size (s : State) : (s.popSp).size = s.size :=
  State.size_congr (by simp)

@[simp] theorem State.popSp_memRead8 (s : State) (n : Int) : (s.popSp).memRead8 n = s.memRead8 n :=
  State.memRead8_congr (by simp) (by simp) n

@[simp] theorem State.popSp_reg (s : State) (q : Reg) : (s.popSp).reg q = s.reg q :=
  State.reg_congr (by simp) (by simp) (by simp) (by simp) q

@[simp] theorem State.call_wrap (s : State) (k : ExtCall) (n : Int) : (s.call k).wrap n = s.wrap n :=
  State.wrap_congr (by simp) n

@[simp] theorem State.call_size (s : State) (k : ExtCall) : (s.call k).size = s.size :=
  State.size_congr (by simp)

@[simp] theorem State.call_memRead8 (s : State) (k : ExtCall) (n : Int) : (s.call k).memRead8 n = s.memRead8 n :=
  State.memRead8_congr (by simp) (by simp) n

@[simp] theorem State.call_reg (s : State) (k : ExtCall) (q : Reg) : (s.call k).reg q = s.reg q :=
  State.reg_congr (by simp) (by simp) (by simp) (by simp) q

@[simp] theorem State.setAssembler_wrap (s : State) (k : UnitContext) (u : UnitId) (m : Assembler) (n : Int) : (s.setAssembler k u m).wrap n = s.wrap n :=
  State.wrap_congr (by simp) n

@[simp] theorem State.setAssembler_size (s : State) (k : UnitContext) (u : UnitId) (m : Assembler) : (s.setAssembler k u m).size = s.size :=
  State.size_congr (by simp)

@[simp] theorem State.setAssembler_memRead8 (s : State) (k : UnitContext) (u : UnitId) (m : Assembler) (n : Int) : (s.setAssembler k u m).memRead8 n = s.memRead8 n :=
  State.memRead8_congr (by simp) (by simp) n

@[simp] theorem State.setAssembler_reg (s : State) (k : UnitContext) (u : UnitId) (m : Assembler) (q : Reg) : (s.setAssembler k u m).reg q = s.reg q :=
  State.reg_congr (by simp) (by simp) (by simp) (by simp) q

@[simp] theorem State.beginStep_wrap (s : State) (n : Int) : (s.beginStep).wrap n = s.wrap n :=
  State.wrap_congr (by simp) n

@[simp] theorem State.beginStep_size (s : State) : (s.beginStep).size = s.size :=
  State.size_congr (by simp)

@[simp] theorem State.beginStep_memRead8 (s : State) (n : Int) : (s.beginStep).memRead8 n = s.memRead8 n :=
  State.memRead8_congr (by simp) (by simp) n

@[simp] theorem State.beginStep_reg (s : State) (q : Reg) : (s.beginStep).reg q = s.reg q :=
  State.reg_congr (by simp) (by simp) (by simp) (by simp) q

@[simp] theorem State.beginTick_wrap (s : State) (n : Int) : (s.beginTick).wrap n = s.wrap n :=
  State.wrap_congr (by simp) n

@[simp] theorem State.beginTick_size (s : State) : (s.beginTick).size = s.size :=
  State.size_congr (by simp)

@[simp] theorem State.beginTick_memRead8 (s : State) (n : Int) : (s.beginTick).memRead8 n = s.memRead8 n :=
  State.memRead8_congr (by simp) (by simp) n

@[simp] theorem State.beginTick_reg (s : State) (q : Reg) : (s.beginTick).reg q = s.reg q :=
  State.reg_congr (by simp) (by simp) (by simp) (by simp) q

end Sys2Proof.Machine
end

