-- ==== Sys2Proof/Laws/Memory.lean ====
section
/-! SUPPORT. The laws of memory: reading after a write, the canonical form that every operation keeps, and words. -/

namespace Sys2Proof.Machine

/-! ### The cell list -/

theorem Memory.write_nil (a : Nat) (b : Byte) :
    Memory.write [] a b = if b = Memory.unlisted then [] else [(a, b)] := rfl

/-- A canonical list has no cell below its head. -/
theorem Memory.read_of_below {m : Memory} {a : Nat} (h : ∀ c ∈ m, a < c.1) : m.read a = Memory.unlisted := by
  induction m with
  | nil => rfl
  | cons c rest ih =>
    obtain ⟨k, v⟩ := c
    have hk : a < k := h (k, v) (by simp)
    simp only [Memory.read, if_neg (by omega : ¬ k = a)]
    exact ih fun c hc => h c (by simp [hc])

theorem Memory.wf_cons {k : Nat} {v : Byte} {rest : Memory} :
    Memory.wf ((k, v) :: rest) = true ↔ v ≠ Memory.unlisted ∧ (∀ c ∈ rest, k < c.1) ∧ Memory.wf rest = true := by
  simp [Memory.wf, and_assoc]

/-- A read after a write to canonical memory: the value written at its address, elsewhere what was there. -/
theorem Memory.read_write {m : Memory} (h : m.wf = true) (a x : Nat) (b : Byte) :
    (m.write a b).read x = if x = a then b else m.read x := by
  induction m with
  | nil =>
    by_cases hb : b = Memory.unlisted
    · simp [Memory.write, Memory.read, hb]
    · simp [Memory.write, Memory.read, hb, eq_comm]
  | cons c rest ih =>
    obtain ⟨k, v⟩ := c
    obtain ⟨hv, hlt, hw⟩ := Memory.wf_cons.1 h
    have ih := ih hw
    unfold Memory.write
    by_cases h1 : a < k
    · have hout : x = a → Memory.read ((k, v) :: rest) x = Memory.unlisted := by
        rintro rfl
        refine Memory.read_of_below ?_
        intro c hc
        rcases List.mem_cons.1 hc with rfl | hc
        · exact h1
        · exact lt_trans h1 (hlt c hc)
      by_cases hb : b = Memory.unlisted
      · by_cases hx : x = a
        · simpa [h1, hb, hx] using hout hx
        · simp [h1, hb, hx]
      · by_cases hx : x = a
        · simp [h1, hb, hx, Memory.read]
        · simp [h1, hb, hx, Memory.read, Ne.symm hx]
    · by_cases h2 : a = k
      · subst h2
        have hrest : x = a → Memory.read rest x = Memory.unlisted := by
          rintro rfl
          exact Memory.read_of_below hlt
        by_cases hb : b = Memory.unlisted
        · by_cases hx : x = a
          · simpa [hb, hx] using hrest hx
          · simp [hb, hx, Memory.read, Ne.symm hx]
        · by_cases hx : x = a
          · simp [hb, hx, Memory.read]
          · simp [hb, hx, Memory.read, Ne.symm hx]
      · simp only [h1, h2, if_false, Memory.read, ih]
        by_cases hx : k = x
        · subst hx
          simp [Ne.symm h2]
        · simp [hx]

/-- A write keeps the canonical form. -/
theorem Memory.wf_write {m : Memory} (h : m.wf = true) (a : Nat) (b : Byte) : (m.write a b).wf = true := by
  induction m with
  | nil =>
    by_cases hb : b = Memory.unlisted
    · simp [Memory.write, hb, Memory.wf]
    · simp [Memory.write, hb, Memory.wf]
  | cons c rest ih =>
    obtain ⟨k, v⟩ := c
    obtain ⟨hv, hlt, hw⟩ := Memory.wf_cons.1 h
    unfold Memory.write
    by_cases h1 : a < k
    · by_cases hb : b = Memory.unlisted
      · simpa [h1, hb] using h
      · simp only [h1, hb, if_true, if_false]
        refine Memory.wf_cons.2 ⟨hb, ?_, h⟩
        intro c hc
        rcases List.mem_cons.1 hc with rfl | hc
        · exact h1
        · exact lt_trans h1 (hlt c hc)
    · by_cases h2 : a = k
      · by_cases hb : b = Memory.unlisted
        · simpa [h2, hb] using hw
        · simp only [h2, hb, if_true, if_false, lt_irrefl]
          exact Memory.wf_cons.2 ⟨hb, hlt, hw⟩
      · simp only [h1, h2, if_false]
        refine Memory.wf_cons.2 ⟨hv, ?_, ih hw⟩
        intro c hc
        rcases Memory.mem_write hc with hc | hc
        · exact hlt c hc
        · omega

/-! ### The core's accesses -/

/-- An address reduced is the mathematical modulus (R12, R41). -/
theorem State.wrap_coe (s : State) (t : Int) : ((s.wrap t : Nat) : Int) = t % s.size := by
  have h := s.params.memSize.pos
  rw [State.wrap, Int.toNat_of_nonneg (Int.emod_nonneg _ (by simp only [State.size]; omega))]

theorem State.wrap_natCast (s : State) (n : Nat) : s.wrap (n : Int) = n % s.size := by
  have h := s.wrap_coe n
  omega

theorem State.wrap_natCast_add (s : State) (n k : Nat) : s.wrap ((n : Int) + (k : Int)) = (n + k) % s.size := by
  rw [← State.wrap_natCast, Nat.cast_add]

theorem State.wrap_eq_wrap (s : State) (x y : Int) : s.wrap x = s.wrap y ↔ x % s.size = y % s.size := by
  rw [← State.wrap_coe, ← State.wrap_coe]
  omega

/-- What a byte read gives after a byte write. -/
theorem State.memRead8_memWrite8 {s : State} (h : s.mem.wf = true) (a x : Int) (b : Byte) :
    (s.memWrite8 a b).memRead8 x = if s.wrap x = s.wrap a then b else s.memRead8 x := by
  simp only [State.memRead8, State.memWrite8_wrap, State.memWrite8_mem]
  exact Memory.read_write h _ _ _

/-- A byte write keeps memory canonical. -/
theorem State.memWrite8_wf {s : State} (h : s.mem.wf = true) (a : Int) (b : Byte) : (s.memWrite8 a b).mem.wf = true :=
  Memory.wf_write h _ _

/-- A word write keeps memory canonical. -/
theorem State.memWrite16_wf {s : State} (h : s.mem.wf = true) (a : Int) (v : Word) :
    (s.memWrite16 a v).mem.wf = true :=
  State.memWrite8_wf (State.memWrite8_wf h a _) _ _

/-- What a byte read gives after a word write (R42 to R44): the high byte is written last. -/
theorem State.memRead8_memWrite16 {s : State} (h : s.mem.wf = true) (a x : Int) (v : Word) :
    (s.memWrite16 a v).memRead8 x =
      if s.wrap x = s.wrap (a + 1) then hiByte v else if s.wrap x = s.wrap a then loByte v else s.memRead8 x := by
  rw [State.memWrite16, State.memRead8_memWrite8 (State.memWrite8_wf h a _), State.memRead8_memWrite8 h, State.memWrite8_wrap,
    State.memWrite8_wrap]

/-- A string of bytes written changes memory alone, and keeps it canonical. -/
theorem State.memWriteBytes_spec (bs : List Byte) : ∀ (s : State) (a : Int),
    ∃ m h, s.memWriteBytes a bs = s.withMem m h ∧ (s.mem.wf = true → m.wf = true) := by
  induction bs with
  | nil => exact fun s a => ⟨s.mem, s.memInRange, rfl, id⟩
  | cons b rest ih =>
    intro s a
    obtain ⟨m, h, hm, hw⟩ := ih (s.memWrite8 a b) (a + 1)
    exact ⟨m, h, hm, fun hs => hw (State.memWrite8_wf hs a b)⟩

/-- A copy changes memory alone, and keeps it canonical. -/
theorem State.memCopy_spec (n : Nat) : ∀ (s : State) (src dst : Int),
    ∃ m h, s.memCopy src dst n = s.withMem m h ∧ (s.mem.wf = true → m.wf = true) := by
  induction n with
  | zero => exact fun s _ _ => ⟨s.mem, s.memInRange, rfl, id⟩
  | succ n ih =>
    intro s src dst
    obtain ⟨m, h, hm, hw⟩ := ih (s.memWrite8 dst (s.memRead8 src)) (src + 1) (dst + 1)
    exact ⟨m, h, hm, fun hs => hw (State.memWrite8_wf hs dst _)⟩

/-- Bytes loaded from outside change memory alone, and keep it canonical. -/
theorem State.loadBytes_spec (bs : List Byte) : ∀ (s : State) (a : Int),
    ∃ m h, s.loadBytes a bs = s.withMem m h ∧ (s.mem.wf = true → m.wf = true) := by
  induction bs with
  | nil => exact fun s _ => ⟨s.mem, s.memInRange, rfl, id⟩
  | cons b rest ih =>
    intro s a
    obtain ⟨m, h, hm, hw⟩ := ih s (a + 1)
    rw [State.loadBytes, hm]
    exact ⟨_, _, rfl, fun hs => Memory.wf_write (hw hs) _ _⟩

end Sys2Proof.Machine
end

