-- ==== Sys2Proof/Laws/Fetch.lean ====
section
/-! SUPPORT. What a fetch gives (30_encoding.md R60, R61, R80). -/

namespace Sys2Proof.Machine

/-- Every length is one of 1, 3, 4 and 5 (R60). -/
theorem lengthOf_cases (op : Byte) : lengthOf op = 1 ∨ lengthOf op = 3 ∨ lengthOf op = 4 ∨ lengthOf op = 5 := by
  unfold lengthOf
  split_ifs <;> simp

theorem State.fetchBytes_succ (s : State) (addr : Int) (n : Nat) :
    s.fetchBytes addr (n + 1) = s.memRead8 addr :: s.fetchBytes (addr + 1) n := rfl

theorem State.fetchBytes_length (s : State) (n : Nat) : ∀ addr : Int, (s.fetchBytes addr n).length = n := by
  induction n with
  | zero => exact fun _ => rfl
  | succ n ih => exact fun addr => by simp [State.fetchBytes_succ, ih]

/-- Byte `k` of a fetch is the byte at `addr + k` (R61). -/
theorem State.fetchBytes_getElem? (s : State) (n : Nat) : ∀ (addr : Int) (k : Nat), k < n →
    (s.fetchBytes addr n)[k]? = some (s.memRead8 (addr + k)) := by
  induction n with
  | zero => exact fun _ k h => absurd h (Nat.not_lt_zero k)
  | succ n ih =>
    intro addr k h
    cases k with
    | zero => simp [State.fetchBytes_succ]
    | succ k =>
      simp only [State.fetchBytes_succ, List.getElem?_cons_succ]
      rw [ih _ _ (by omega)]
      congr 2
      push_cast
      ring

/-- A shorter fetch is the beginning of a longer one. -/
theorem State.fetchBytes_take (s : State) {n m : Nat} (h : n ≤ m) (addr : Int) :
    (s.fetchBytes addr m).take n = s.fetchBytes addr n := by
  apply List.ext_getElem?
  intro k
  by_cases hk : k < n
  · rw [List.getElem?_take_of_lt hk, s.fetchBytes_getElem? m addr k (by omega), s.fetchBytes_getElem? n addr k hk]
  · rw [List.getElem?_eq_none (by simp [State.fetchBytes_length]; omega),
      List.getElem?_eq_none (by simp [State.fetchBytes_length]; omega)]

/-- A fetch depends on the memory and the parameters alone. -/
theorem State.fetchBytes_congr {s t : State} (hm : t.mem = s.mem) (hp : t.params = s.params) (n : Nat) :
    ∀ addr : Int, t.fetchBytes addr n = s.fetchBytes addr n := by
  induction n with
  | zero => exact fun _ => rfl
  | succ n ih => exact fun addr => by simp only [State.fetchBytes_succ, ih, State.memRead8_congr hm hp]

/-- Decoding depends on the memory, the parameters and the address alone (R80). -/
theorem State.decodeAt_congr {s t : State} (hm : t.mem = s.mem) (hp : t.params = s.params) (addr : Nat) :
    t.decodeAt addr = s.decodeAt addr := by
  simp only [State.decodeAt, State.memRead8_congr hm hp, State.fetchBytes_congr hm hp, hp]

/-- A step decodes what lay at `pc` when it began. -/
theorem State.decodeAt_beginStep (s : State) (addr : Nat) : s.beginStep.decodeAt addr = s.decodeAt addr :=
  State.decodeAt_congr (s := s) (t := s.beginStep) rfl rfl addr

/-- The first byte of the snapshot is the opcode. -/
theorem State.decodeAt_ins_cons (s : State) (addr : Nat) :
    ∃ rest, (s.decodeAt addr).ins = s.memRead8 addr :: rest := by
  obtain ⟨n, hn⟩ : ∃ n, lengthOf (s.memRead8 addr) = n + 1 := by
    rcases lengthOf_cases (s.memRead8 addr) with h | h | h | h <;> exact ⟨_, h⟩
  exact ⟨s.fetchBytes (addr + 1) n, by simp only [State.decodeAt, hn, State.fetchBytes_succ]⟩

end Sys2Proof.Machine
end

