-- ==== Sys2Proof/Laws/Ops.lean ====
section
/-! SUPPORT. For each shared operation of the meanings, once, everything it can do. -/

namespace Sys2Proof.Machine

/-! ### Ending a step -/

/-- A success reports itself and changes nothing else (R16, R81). -/
theorem State.ok_next {s t : State} {c : Nat} (h : s.ok c = .next t) :
    t.toVMState = s.toVMState ∧ envSame s t ∧ succeeded s t c ∧ t.message = none := by
  cases h
  exact ⟨rfl, ⟨rfl, rfl, rfl, rfl⟩, ⟨rfl, rfl, rfl⟩, rfl⟩

/-- A failure changes no architectural state (R301), and reports itself, with its message in the instance's `HEX_CASE`
(R305). -/
theorem State.fail_next {s t : State} {e : ErrorCode} {c : Nat} (h : s.fail e c = .next t) :
    failedWith s t e c ∧ t.calls = s.calls ∧ t.message = e.message s.params.hexCase := by
  cases h
  exact ⟨⟨rfl, rfl, rfl, rfl, rfl, rfl, rfl⟩, rfl, rfl⟩

/-- Every failure costs 1 cycle, but those of the UNIT instructions under the alternative of R303. -/
@[simp] theorem State.failCost_eq (s : State) : s.failCost = 1 := by
  unfold State.failCost
  split <;> rfl

theorem State.unitFailCost_eq (s : State) :
    s.unitFailCost = if s.params.failCycles = .threeForUnit then 3 else 1 := by
  unfold State.unitFailCost
  split <;> simp_all

/-- A taken jump, one not taken, and no other outcome (R220). -/
theorem State.jumpIf_eq (s : State) (cond : Bool) (off : Word) :
    s.jumpIf cond off = if cond then (s.setPc (s.relTarget off)).ok 3 else (s.advance 3).ok 1 := rfl

/-! ### The stack -/

/-- What a byte read gives after a push (R47): the word at the new `sp`, all else as before. -/
theorem State.memRead8_push16 {s : State} (h : s.mem.wf = true) (v : Word) (x : Int) :
    (s.push16 v).memRead8 x =
      if s.wrap x = s.wrap ((s.sp : Int) - 2 + 1) then hiByte v
      else if s.wrap x = s.wrap ((s.sp : Int) - 2) then loByte v else s.memRead8 x := by
  have h' : (s.setSp ((s.sp : Int) - 2)).mem.wf = true := h
  simp only [State.push16]
  rw [State.memRead8_memWrite16 h']
  simp [State.wrap_wrap_add]

/-- A push keeps memory canonical. -/
theorem State.push16_wf {s : State} (h : s.mem.wf = true) (v : Word) : (s.push16 v).mem.wf = true :=
  State.memWrite16_wf (s := s.setSp ((s.sp : Int) - 2)) h _ _

/-! ### The environment -/

/-- A table answers a key it has been set for with the new answer, every other key as before. -/
theorem Table.get_set {κ α : Type} [DecidableEq κ] (t : Table κ α) (k q : κ) (v : α) :
    (t.set k v).get q = if q = k then v else t.get q := by
  obtain ⟨es, o⟩ := t
  by_cases h : q = k
  · subst h
    simp [Table.get, Table.set]
  · have hne : (q == k) = false := by simpa using h
    simp only [Table.get, Table.set, List.lookup, hne, h, if_false]
    congr 1
    induction es with
    | nil => rfl
    | cons e rest ih =>
      obtain ⟨x, y⟩ := e
      by_cases hx : x = k
      · subst hx
        simpa [List.lookup, hne] using ih
      · rw [List.filter_cons_of_pos (by simpa using hx)]
        by_cases hq : q = x
        · simp [List.lookup, hq]
        · have hqx : (q == x) = false := by simpa using hq
          simpa [List.lookup, hqx] using ih

/-- Every outcome of the resolution of a target (R250, R274): one of its failures, which leaves the state but for the
calls recorded, or it goes on with the context and a unit it has reached. -/
theorem State.resolve_cases (s : State) (sel : Byte) (accept : UnitType → Bool) (cost : Nat)
    (k : State → UnitContext → UnitId → Result) :
    (∃ e calls, s.resolve sel accept cost k = ({ s with calls := calls } : State).fail e cost ∧
      (e = .requiresUnitContext ∨ e = .unitNotFound sel ∨ e = .accessDenied sel ∨ ∃ m, e = .internalError m)) ∨
    (∃ ctx u calls, s.ctx = some ctx ∧ reaches ctx sel u ∧ accept (ctx.units.get u).type = true ∧
      s.resolve sel accept cost k = k { s with calls := calls } ctx u) := by
  unfold State.resolve
  split
  · exact .inl ⟨_, s.calls, rfl, by simp⟩
  · rename_i ctx hctx
    split
    · exact .inl ⟨_, _, rfl, by simp⟩
    · exact .inl ⟨_, _, rfl, by simp⟩
    · rename_i u hu
      split
      · rename_i hacc
        split
        · exact .inl ⟨_, _, rfl, by simp⟩
        · exact .inl ⟨_, _, rfl, by simp⟩
        · rename_i ha
          exact .inr ⟨ctx, u, _, hctx, ⟨hu, ha⟩, hacc, rfl⟩
      · exact .inl ⟨_, _, rfl, by simp⟩

/-- Every outcome of asking a unit for its interface (R250). -/
theorem State.openMemIf_cases (s : State) (sel : Byte) (ctx : UnitContext) (u : UnitId) (cost : Nat)
    (k : State → MemInterface → Result) :
    (∃ e calls, s.openMemIf sel ctx u cost k = ({ s with calls := calls } : State).fail e cost ∧
      (e = .noMemoryInterface sel ∨ ∃ m, e = .internalError m)) ∨
    (∃ mi calls, (ctx.units.get u).memIf = .ok (some mi) ∧
      s.openMemIf sel ctx u cost k = k { s with calls := calls } mi) := by
  unfold State.openMemIf
  split
  · exact .inl ⟨_, _, rfl, by simp⟩
  · exact .inl ⟨_, _, rfl, by simp⟩
  · rename_i mi hmi
    exact .inr ⟨mi, _, hmi, rfl⟩

end Sys2Proof.Machine
end

