-- ==== Sys2Proof/Laws/PerInstr.lean ====
section
/-! SUPPORT. The per-instruction family `EncodedLength`: the bytes of an instruction are as many as the length law gives
its first byte (R60, R62), under either layout of the absolute forms. -/

namespace Sys2Proof.Laws.EncodedLength

/-- The encoding of `i` has the length its opcode byte gives. -/
def Statement (i : Instr) : Prop :=
  ∀ p : AbsAddrAt, (encode p i).length = lengthOf ((encode p i).headD 0)

/-- The encoding of an absolute form has the four bytes of its opcode. -/
theorem absForm (op : Byte) (addr : Word) (h : lengthOf op = 4) (p : AbsAddrAt) :
    (encAbs p op addr).length = lengthOf ((encAbs p op addr).headD 0) := by
  cases p <;> simpa [encAbs, le16] using h.symm

theorem nop : Statement (.nop) := fun _ => rfl

theorem movAB : Statement (.movAB) := fun _ => rfl

theorem movAC : Statement (.movAC) := fun _ => rfl

theorem movAD : Statement (.movAD) := fun _ => rfl

theorem movBA : Statement (.movBA) := fun _ => rfl

theorem movBC : Statement (.movBC) := fun _ => rfl

theorem movBD : Statement (.movBD) := fun _ => rfl

theorem movCA : Statement (.movCA) := fun _ => rfl

theorem movCB : Statement (.movCB) := fun _ => rfl

theorem movCD : Statement (.movCD) := fun _ => rfl

theorem movDA : Statement (.movDA) := fun _ => rfl

theorem movDB : Statement (.movDB) := fun _ => rfl

theorem movDC : Statement (.movDC) := fun _ => rfl

theorem xchgAB : Statement (.xchgAB) := fun _ => rfl

theorem movASp : Statement (.movASp) := fun _ => rfl

theorem movSpA : Statement (.movSpA) := fun _ => rfl

theorem incA : Statement (.incA) := fun _ => rfl

theorem incB : Statement (.incB) := fun _ => rfl

theorem incC : Statement (.incC) := fun _ => rfl

theorem incD : Statement (.incD) := fun _ => rfl

theorem decA : Statement (.decA) := fun _ => rfl

theorem decB : Statement (.decB) := fun _ => rfl

theorem decC : Statement (.decC) := fun _ => rfl

theorem decD : Statement (.decD) := fun _ => rfl

theorem addAB : Statement (.addAB) := fun _ => rfl

theorem subAB : Statement (.subAB) := fun _ => rfl

theorem cmpAB : Statement (.cmpAB) := fun _ => rfl

theorem andAB : Statement (.andAB) := fun _ => rfl

theorem orAB : Statement (.orAB) := fun _ => rfl

theorem xorAB : Statement (.xorAB) := fun _ => rfl

theorem notA : Statement (.notA) := fun _ => rfl

theorem pushA : Statement (.pushA) := fun _ => rfl

theorem pushB : Statement (.pushB) := fun _ => rfl

theorem pushC : Statement (.pushC) := fun _ => rfl

theorem pushD : Statement (.pushD) := fun _ => rfl

theorem popA : Statement (.popA) := fun _ => rfl

theorem popB : Statement (.popB) := fun _ => rfl

theorem popC : Statement (.popC) := fun _ => rfl

theorem popD : Statement (.popD) := fun _ => rfl

theorem ret : Statement (.ret) := fun _ => rfl

theorem loadA (off : Word) : Statement (.loadA off) := fun _ => rfl

theorem storeA (off : Word) : Statement (.storeA off) := fun _ => rfl

theorem loadAByte (off : Word) : Statement (.loadAByte off) := fun _ => rfl

theorem storeAByte (off : Word) : Statement (.storeAByte off) := fun _ => rfl

theorem loadInd (off : Word) : Statement (.loadInd off) := fun _ => rfl

theorem storeInd (off : Word) : Statement (.storeInd off) := fun _ => rfl

theorem loadIndByte (off : Word) : Statement (.loadIndByte off) := fun _ => rfl

theorem storeIndByte (off : Word) : Statement (.storeIndByte off) := fun _ => rfl

theorem loadReg (r : Reg) : Statement (.loadReg r) := fun _ => rfl

theorem storeReg (r : Reg) : Statement (.storeReg r) := fun _ => rfl

theorem loadRegByte (r : Reg) : Statement (.loadRegByte r) := fun _ => rfl

theorem storeRegByte (r : Reg) : Statement (.storeRegByte r) := fun _ => rfl

theorem movAImm (imm : Word) : Statement (.movAImm imm) := fun _ => rfl

theorem movBImm (imm : Word) : Statement (.movBImm imm) := fun _ => rfl

theorem movCImm (imm : Word) : Statement (.movCImm imm) := fun _ => rfl

theorem movDImm (imm : Word) : Statement (.movDImm imm) := fun _ => rfl

theorem addAImm (imm : Word) : Statement (.addAImm imm) := fun _ => rfl

theorem subAImm (imm : Word) : Statement (.subAImm imm) := fun _ => rfl

theorem andAImm (imm : Word) : Statement (.andAImm imm) := fun _ => rfl

theorem orAImm (imm : Word) : Statement (.orAImm imm) := fun _ => rfl

theorem xorAImm (imm : Word) : Statement (.xorAImm imm) := fun _ => rfl

theorem cmpAImm (imm : Word) : Statement (.cmpAImm imm) := fun _ => rfl

theorem jmp (off : Word) : Statement (.jmp off) := fun _ => rfl

theorem jz (off : Word) : Statement (.jz off) := fun _ => rfl

theorem jnz (off : Word) : Statement (.jnz off) := fun _ => rfl

theorem jc (off : Word) : Statement (.jc off) := fun _ => rfl

theorem jnc (off : Word) : Statement (.jnc off) := fun _ => rfl

theorem jg (off : Word) : Statement (.jg off) := fun _ => rfl

theorem jge (off : Word) : Statement (.jge off) := fun _ => rfl

theorem jl (off : Word) : Statement (.jl off) := fun _ => rfl

theorem jle (off : Word) : Statement (.jle off) := fun _ => rfl

theorem jul (off : Word) : Statement (.jul off) := fun _ => rfl

theorem juge (off : Word) : Statement (.juge off) := fun _ => rfl

theorem call (off : Word) : Statement (.call off) := fun _ => rfl

theorem loadAbs (addr : Word) : Statement (.loadAbs addr) := fun p => absForm _ addr (by decide) p

theorem storeAbs (addr : Word) : Statement (.storeAbs addr) := fun p => absForm _ addr (by decide) p

theorem loadAbsByte (addr : Word) : Statement (.loadAbsByte addr) := fun p => absForm _ addr (by decide) p

theorem storeAbsByte (addr : Word) : Statement (.storeAbsByte addr) := fun p => absForm _ addr (by decide) p

theorem unitMemRead (sel : Byte) (ua : Word) : Statement (.unitMemRead sel ua) := fun _ => rfl

theorem unitMemWrite (sel : Byte) (ua : Word) : Statement (.unitMemWrite sel ua) := fun _ => rfl

theorem unitMemWriteDyn (sel : Byte) : Statement (.unitMemWriteDyn sel) := fun _ => rfl

theorem jmpAbs (addr : Word) : Statement (.jmpAbs addr) := fun p => absForm _ addr (by decide) p

theorem callAbs (addr : Word) : Statement (.callAbs addr) := fun p => absForm _ addr (by decide) p

theorem mulAB : Statement (.mulAB) := fun _ => rfl

theorem divAB : Statement (.divAB) := fun _ => rfl

theorem shl : Statement (.shl) := fun _ => rfl

theorem shr : Statement (.shr) := fun _ => rfl

theorem loadImm (imm : Word) : Statement (.loadImm imm) := fun _ => rfl

theorem loadImmB (imm : Word) : Statement (.loadImmB imm) := fun _ => rfl

theorem scan (dst : Word) : Statement (.scan dst) := fun _ => rfl

theorem scanm (src dst : Word) : Statement (.scanm src dst) := fun _ => rfl

theorem energy (sub : Byte) : Statement (.energy sub) := fun _ => rfl

theorem assemble (sel cmd : Byte) : Statement (.assemble sel cmd) := fun _ => rfl

end Sys2Proof.Laws.EncodedLength
end

