-- ==== Sys2Proof/Tests/Slice0.lean ====
section
/-! SUPPORT. Tests. Every expected value is the spec's: its encodings (30_encoding.md), its examples (files 40 to 46) and
its vectors (95_test_vectors.md, named T<n> and S<n>). Each step test is one step. The last part shows, for every
statement with hypotheses, a state and operands that meet them. -/

namespace Sys2Proof.Tests

open Sys2Proof.Machine

/-! ### Helpers -/

/-- The start state of the vectors: reset at N = 256 with `pc = 0x10` and the instruction's bytes there. -/
def start (bytes : List Byte) : State := (State.reset.setPc 0x10).loadBytes 0x10 bytes

/-- Bytes placed at an address. -/
def poke (s : State) (addr : Nat) (bytes : List Byte) : State := s.loadBytes addr bytes

/-- What `f` sees of a next state. -/
def after {α : Type} (r : Result) (f : State → α) : Option α :=
  match r with
  | .next t => some (f t)
  | _ => none

/-- The cost of the last step if it was a success. -/
def okCost (t : State) : Option Nat :=
  match t.result with
  | some (.success c) => some c
  | _ => none

/-- The error and the cost of the last step if it was a failure. -/
def failure (t : State) : Option (ErrorCode × Nat) :=
  match t.result with
  | some (.failure e c) => some (e, c)
  | _ => none

/-- Why a construction was refused. -/
def refusalOf (r : Except Refusal State) : Option Refusal :=
  match r with
  | .ok _ => none
  | .error e => some e

/-- The state after reset at memory size `n`. -/
def resetAt (n : MemSize) : State := State.resetWith (Params.defaults n)

/-- The smallest sizes. -/
def size1 : MemSize := ⟨1, by decide, by decide⟩
def size2 : MemSize := ⟨2, by decide, by decide⟩
def size32 : MemSize := ⟨32, by decide, by decide⟩

/-! ### Well-formedness: what each check refuses -/

/-- A 3-byte format at a 1-byte opcode, or one outside the byte, is no row of a map (R10, R60). -/
theorem test_row_of_wrong_length_refused :
    rowWellFormed 0x00 .f3i = false ∧ rowWellFormed 0x40 .f1 = false ∧ rowWellFormed 0x80 .f5n = false ∧
    rowWellFormed 0xC0 .f4a = false ∧ rowWellFormed 0x100 .f5n = false := by decide

/-- The format lengths are those of R62, and a row at each end of each range of R60 is accepted. -/
theorem test_row_accepted :
    rowWellFormed 0x00 .f1 = true ∧ rowWellFormed 0x3F .f1 = true ∧ rowWellFormed 0x40 .f3r = true ∧
    rowWellFormed 0x7F .f3x = true ∧ rowWellFormed 0x80 .f4u = true ∧ rowWellFormed 0xBF .f4v = true ∧
    rowWellFormed 0xC0 .f5m = true ∧ rowWellFormed 0xFF .f5a = true := by decide

/-- Rows that break the length law, or give an opcode twice, are no `OPCODE_MAP` (R10, R73). -/
theorem test_map_refused :
    validRows [(0x00, .nop), (0x3F, .movAImm)] = false ∧ validRows [(0x100, .shl)] = false ∧
    validRows [(0x00, .nop), (0x00, .incA)] = false ∧ validRows [(0x3F, .nop), (0x00, .incA)] = true ∧
    validRows [] = true := by decide

/-- A size outside `[1, 65536]` is refused (R331). -/
theorem test_size_refused :
    validSize 0 = false ∧ validSize (-1) = false ∧ validSize 65537 = false ∧ validSize 1 = true ∧
    validSize 65536 = true := by decide

/-- A buffer of another length is refused (R331). -/
theorem test_buffer_refused :
    validBuffer 2 (some [0x00]) = false ∧ validBuffer 2 (some [0x00, 0x10]) = true ∧ validBuffer 2 none = true := by
  decide

/-- The decoder rejects by name: no byte, too few bytes, an undefined opcode (R60, R72). -/
theorem test_decode_rejects :
    decode .default .byte1 [] = .error .empty ∧ decode .default .byte1 [0xE0, 0x05] = .error (.truncated 0xE0) ∧
    decode .default .byte1 [0x1F] = .error (.undefinedOpcode 0x1F) := by decide

/-! ### Decoding: a word of every instruction, written from the encoding tables (R62, R75 to R78) -/

/-- The 1-byte instructions. -/
def words1 : List (List Byte × Instr) :=
  [([0x00], .nop), ([0x01], .movAB), ([0x02], .movAC), ([0x03], .movAD), ([0x04], .movBA), ([0x05], .movBC),
   ([0x06], .movBD), ([0x07], .movCA), ([0x08], .movCB), ([0x09], .movCD), ([0x0A], .movDA), ([0x0B], .movDB)] ++
  [([0x0C], .movDC), ([0x0D], .xchgAB), ([0x0E], .movASp), ([0x0F], .movSpA), ([0x10], .incA), ([0x11], .incB),
   ([0x12], .incC), ([0x13], .incD), ([0x14], .decA), ([0x15], .decB), ([0x16], .decC), ([0x17], .decD)] ++
  [([0x18], .addAB), ([0x19], .subAB), ([0x1A], .cmpAB), ([0x1B], .andAB), ([0x1C], .orAB), ([0x1D], .xorAB),
   ([0x1E], .notA), ([0x20], .pushA), ([0x21], .pushB), ([0x22], .pushC), ([0x23], .pushD), ([0x24], .popA)] ++
  [([0x25], .popB), ([0x26], .popC), ([0x27], .popD), ([0x28], .ret)]

theorem test_decode_one_byte : words1.all (fun w => decodeIns .default .byte1 w.1 == some w.2) = true := by decide

/-- The 3-byte instructions; reserved bytes are not 0 where the format has any (R71). -/
def words3 : List (List Byte × Instr) :=
  [([0x40, 0xF6, 0xFF], .loadA 0xFFF6), ([0x41, 0xF6, 0xFF], .storeA 0xFFF6),
   ([0x42, 0xF6, 0xFF], .loadAByte 0xFFF6), ([0x43, 0xF6, 0xFF], .storeAByte 0xFFF6),
   ([0x44, 0xF6, 0xFF], .loadInd 0xFFF6), ([0x45, 0xF6, 0xFF], .storeInd 0xFFF6),
   ([0x46, 0xF6, 0xFF], .loadIndByte 0xFFF6), ([0x47, 0xF6, 0xFF], .storeIndByte 0xFFF6),
   ([0x48, 0x03, 0x77], .loadReg .d), ([0x49, 0x02, 0x77], .storeReg .c), ([0x4A, 0xFF, 0x77], .loadRegByte .d),
   ([0x4B, 0xFD, 0x77], .storeRegByte .b)] ++
  [([0x50, 0x34, 0x12], .movAImm 0x1234), ([0x51, 0x34, 0x12], .movBImm 0x1234),
   ([0x52, 0x34, 0x12], .movCImm 0x1234), ([0x53, 0x34, 0x12], .movDImm 0x1234),
   ([0x54, 0x34, 0x12], .addAImm 0x1234), ([0x55, 0x34, 0x12], .subAImm 0x1234),
   ([0x56, 0x34, 0x12], .andAImm 0x1234), ([0x57, 0x34, 0x12], .orAImm 0x1234),
   ([0x58, 0x34, 0x12], .xorAImm 0x1234), ([0x59, 0x34, 0x12], .cmpAImm 0x1234), ([0x60, 0xF6, 0xFF], .jmp 0xFFF6),
   ([0x61, 0xF6, 0xFF], .jz 0xFFF6)] ++
  [([0x62, 0xF6, 0xFF], .jnz 0xFFF6), ([0x63, 0xF6, 0xFF], .jc 0xFFF6), ([0x64, 0xF6, 0xFF], .jnc 0xFFF6),
   ([0x65, 0xF6, 0xFF], .jg 0xFFF6), ([0x66, 0xF6, 0xFF], .jge 0xFFF6), ([0x67, 0xF6, 0xFF], .jl 0xFFF6),
   ([0x68, 0xF6, 0xFF], .jle 0xFFF6), ([0x69, 0xF6, 0xFF], .jul 0xFFF6), ([0x6A, 0xF6, 0xFF], .juge 0xFFF6),
   ([0x6B, 0xF6, 0xFF], .call 0xFFF6)]

theorem test_decode_three_byte : words3.all (fun w => decodeIns .default .byte1 w.1 == some w.2) = true := by decide

/-- The 4-byte instructions; reserved bytes are not 0 where the format has any (R71). -/
def words4 : List (List Byte × Instr) :=
  [([0x80, 0x34, 0x12, 0x77], .loadAbs 0x1234), ([0x81, 0x34, 0x12, 0x77], .storeAbs 0x1234),
   ([0x82, 0x34, 0x12, 0x77], .loadAbsByte 0x1234), ([0x83, 0x34, 0x12, 0x77], .storeAbsByte 0x1234),
   ([0x90, 0x0A, 0x10, 0x20], .unitMemRead 0x0A 0x2010), ([0x91, 0x0A, 0x10, 0x20], .unitMemWrite 0x0A 0x2010),
   ([0x92, 0x0A, 0x77, 0x77], .unitMemWriteDyn 0x0A), ([0xB0, 0x34, 0x12, 0x77], .jmpAbs 0x1234),
   ([0xB1, 0x34, 0x12, 0x77], .callAbs 0x1234)]

theorem test_decode_four_byte : words4.all (fun w => decodeIns .default .byte1 w.1 == some w.2) = true := by decide

/-- The 5-byte instructions; reserved bytes are not 0 where the format has any (R71). -/
def words5 : List (List Byte × Instr) :=
  [([0xC0, 0x11, 0x22, 0x33, 0x44], .mulAB), ([0xC1, 0x11, 0x22, 0x33, 0x44], .divAB),
   ([0xC2, 0x11, 0x22, 0x33, 0x44], .shl), ([0xC3, 0x11, 0x22, 0x33, 0x44], .shr),
   ([0xE0, 0x34, 0x12, 0xAA, 0xBB], .loadImm 0x1234), ([0xE1, 0x34, 0x12, 0xAA, 0xBB], .loadImmB 0x1234),
   ([0xF0, 0xFF, 0x01, 0xAA, 0xBB], .scan 0x01FF), ([0xF1, 0x20, 0x01, 0x30, 0x02], .scanm 0x0120 0x0230),
   ([0xF2, 0x07, 0xAA, 0xBB, 0xCC], .energy 0x07), ([0xF3, 0x02, 0x01, 0xAA, 0xBB], .assemble 0x02 0x01)]

theorem test_decode_five_byte : words5.all (fun w => decodeIns .default .byte1 w.1 == some w.2) = true := by decide

/-- The words above are of 93 opcodes, the whole map, each once (R79). -/
theorem test_words_cover_the_map :
    (words1 ++ words3 ++ words4 ++ words5).map (fun w => (insAt w.1 0).toNat) =
      OpcodeMap.default.rows.map Prod.fst := by decide

/-- `ABS_ADDR_AT = 2`: the address in bytes 2 and 3 (R67). -/
theorem test_decode_abs_at_byte2 : decodeIns .default .byte2 [0x80, 0x77, 0x34, 0x12] = some (.loadAbs 0x1234) := by decide

/-- Another map, which respects the length law (R10): NOP at 0x3F, INC_A at 0x00 and 0x01, ASSEMBLE at 0xFF. -/
def otherMap : OpcodeMap := ⟨[(0x3F, .nop), (0x00, .incA), (0x01, .incA), (0xFF, .assemble)], by decide⟩

/-- The state after reset of an instance with that map. -/
def otherReset : State := State.resetWith { Params.defaults MemSize.scenario with opcodeMap := otherMap }

/-- Under another map the bytes of zeroed memory are what it says they are, and what it has no entry for is undefined
(R10, R72). -/
theorem test_other_map :
    after (step otherReset) (fun t => (t.a, t.pc, okCost t)) = some (1, 1, some 1) ∧
    after (step (poke otherReset 0 [0x10])) failure = some (some (.undefinedInstruction 0x10, 1)) ∧
    decodeIns otherMap .byte1 [0xFF, 0x02, 0x01, 0x00, 0x00] = some (.assemble 0x02 0x01) := by decide

/-- The table's numbering: bit 0 is the least significant bit of the first byte; the bits above `nbits` are 0. -/
theorem test_table_word :
    decodeTableWord 40 0x05E0 = some (.loadImm 5) ∧ decodeTableWord 8 0x50 = some (.movAImm 0) ∧
    decodeTableWord 16 0x0348 = some (.loadReg .d) ∧ decodeTableWord 8 0x1F = none := by decide

/-- S1: the length law, on opcodes assigned or not. -/
theorem test_length_law :
    [0x00, 0x1F, 0x3F, 0x40, 0x7F, 0x80, 0xBF, 0xC0, 0xFF].map lengthOf = [1, 1, 1, 3, 3, 4, 4, 5, 5] := by decide

/-- T1: a 5-byte instruction across the top of memory. -/
theorem test_fetch_wraps :
    after (step (poke (State.reset.setPc 0xFE) 0xFE [0xE0, 0x34, 0x12, 0x00, 0x00]))
      (fun t => (t.a, t.pc, okCost t)) = some (0x1234, 0x03, some 1) := by decide

/-- T2: at N = 2 the bytes of a 5-byte instruction repeat. -/
theorem test_fetch_repeats_at_two :
    after (step (poke (resetAt size2) 0 [0xE0, 0x01])) (fun t => (t.a, t.pc, okCost t)) = some (0xE001, 1, some 1) := by
  decide

/-- T3: at N = 1 the core runs NOP forever. -/
theorem test_fetch_at_one : after (step (resetAt size1)) (fun t => (t.pc, okCost t)) = some (0, some 1) := by decide

/-- The first instruction after reset is the one `withFetchWord` places. -/
theorem test_with_fetch_word :
    after (step (State.reset.withFetchWord 24 0x123450)) (fun t => (t.a, t.pc)) = some (0x1234, 3) := by decide

/-! ### One step of each instruction -/

/-- T5: NOP at `N - 1`. -/
theorem test_nop :
    after (step (State.reset.setPc 0xFF))
      (fun t => (t.pc, okCost t)) = some (0x00, some 1) := by decide

/-- T6. -/
theorem test_mov_ab :
    after (step { start [0x01] with a := 1, b := 0xBEEF })
      (fun t => (t.a, t.pc, okCost t)) = some (0xBEEF, 0x11, some 1) := by decide

/-- R103. -/
theorem test_mov_ac :
    after (step { start [0x02] with c := 0x0102 })
      (fun t => (t.a, t.pc, okCost t)) = some (0x0102, 0x11, some 1) := by decide

/-- R104. -/
theorem test_mov_ad :
    after (step { start [0x03] with d := 0xFFFF })
      (fun t => (t.a, t.pc, okCost t)) = some (0xFFFF, 0x11, some 1) := by decide

/-- R105; T16: the flags stay. -/
theorem test_mov_ba :
    after (step { start [0x04] with a := 0x0125, z := true, cy := true })
      (fun t => (t.b, t.z, t.cy)) = some (0x0125, true, true) := by decide

/-- R106. -/
theorem test_mov_bc :
    after (step { start [0x05] with c := 7 })
      (fun t => (t.b, t.pc, okCost t)) = some (0x0007, 0x11, some 1) := by decide

/-- R107. -/
theorem test_mov_bd :
    after (step { start [0x06] with d := 0x8000 })
      (fun t => (t.b, t.pc, okCost t)) = some (0x8000, 0x11, some 1) := by decide

/-- R108. -/
theorem test_mov_ca :
    after (step { start [0x07] with a := 0x0040 })
      (fun t => (t.c, t.pc, okCost t)) = some (0x0040, 0x11, some 1) := by decide

/-- R109. -/
theorem test_mov_cb :
    after (step { start [0x08] with b := 0x00FF })
      (fun t => (t.c, t.pc, okCost t)) = some (0x00FF, 0x11, some 1) := by decide

/-- R110. -/
theorem test_mov_cd :
    after (step { start [0x09] with d := 0x1234 })
      (fun t => (t.c, t.pc, okCost t)) = some (0x1234, 0x11, some 1) := by decide

/-- R111. -/
theorem test_mov_da :
    after (step { start [0x0A] with a := 0x0020 })
      (fun t => (t.d, t.pc, okCost t)) = some (0x0020, 0x11, some 1) := by decide

/-- R112, with another D before. -/
theorem test_mov_db :
    after (step { start [0x0B] with d := 5 })
      (fun t => (t.d, t.pc, okCost t)) = some (0x0000, 0x11, some 1) := by decide

/-- T7. -/
theorem test_mov_dc :
    after (step { start [0x0C] with c := 0xABCD, d := 0x1111 })
      (fun t => (t.d, t.pc, okCost t)) = some (0xABCD, 0x11, some 1) := by decide

/-- T8. -/
theorem test_xchg_ab :
    after (step { start [0x0D] with a := 1, b := 2 })
      (fun t => (t.a, t.b, t.pc)) = some (2, 1, 0x11) := by decide

/-- T9. -/
theorem test_mov_a_sp :
    after (step { start [0x0E] with a := 0x1234 })
      (fun t => (t.a, t.pc, okCost t)) = some (0x00FF, 0x11, some 1) := by decide

/-- T10: `A >= N`. -/
theorem test_mov_sp_a :
    after (step { start [0x0F] with a := 0x0180 })
      (fun t => (t.sp, t.pc, okCost t)) = some (0x80, 0x11, some 1) := by decide

/-- T12. -/
theorem test_mov_a_imm :
    after (step (start [0x50, 0x34, 0x12]))
      (fun t => (t.a, t.pc, okCost t)) = some (0x1234, 0x13, some 2) := by decide

/-- R118, with another B before. -/
theorem test_mov_b_imm :
    after (step { start [0x51, 0x00, 0x00] with b := 9 })
      (fun t => (t.b, t.pc, okCost t)) = some (0x0000, 0x13, some 2) := by decide

/-- R119. -/
theorem test_mov_c_imm :
    after (step (start [0x52, 0x03, 0x00]))
      (fun t => (t.c, t.pc, okCost t)) = some (0x0003, 0x13, some 2) := by decide

/-- T13. -/
theorem test_mov_d_imm :
    after (step (start [0x53, 0xFF, 0xFF]))
      (fun t => (t.d, t.pc, okCost t)) = some (0xFFFF, 0x13, some 2) := by decide

/-- T14: the reserved bytes are ignored. -/
theorem test_load_imm :
    after (step (start [0xE0, 0x05, 0x00, 0xAA, 0xBB]))
      (fun t => (t.a, t.pc, okCost t)) = some (0x0005, 0x15, some 1) := by decide

/-- T15. -/
theorem test_load_imm_b :
    after (step (start [0xE1, 0x07, 0x00, 0x00, 0x00]))
      (fun t => (t.b, t.pc, okCost t)) = some (0x0007, 0x15, some 1) := by decide

/-- T17: the wrap. -/
theorem test_inc_a :
    after (step { start [0x10] with a := 0xFFFF })
      (fun t => (t.a, t.pc, t.z, t.cy, okCost t)) = some (0x0000, 0x11, true, true, some 1) := by decide

/-- T18. -/
theorem test_inc_a_clears_carry :
    after (step { start [0x10] with a := 5, cy := true })
      (fun t => (t.a, t.pc, t.z, t.cy, okCost t)) = some (0x0006, 0x11, false, false, some 1) := by decide

/-- R133. -/
theorem test_inc_b :
    after (step { start [0x11] with b := 0x00FF })
      (fun t => (t.b, t.pc, t.z, t.cy, okCost t)) = some (0x0100, 0x11, false, false, some 1) := by decide

/-- R134. -/
theorem test_inc_c :
    after (step { start [0x12] with c := 0xFFFF })
      (fun t => (t.c, t.pc, t.z, t.cy, okCost t)) = some (0x0000, 0x11, true, true, some 1) := by decide

/-- R135. -/
theorem test_inc_d :
    after (step { start [0x13] with d := 0x0020 })
      (fun t => (t.d, t.pc, t.z, t.cy, okCost t)) = some (0x0021, 0x11, false, false, some 1) := by decide

/-- T19: the borrow. -/
theorem test_dec_a :
    after (step (start [0x14]))
      (fun t => (t.a, t.pc, t.z, t.cy, okCost t)) = some (0xFFFF, 0x11, false, true, some 1) := by decide

/-- R137. -/
theorem test_dec_b :
    after (step { start [0x15] with b := 0x0100 })
      (fun t => (t.b, t.pc, t.z, t.cy, okCost t)) = some (0x00FF, 0x11, false, false, some 1) := by decide

/-- T20. -/
theorem test_dec_c :
    after (step { start [0x16] with c := 1 })
      (fun t => (t.c, t.pc, t.z, t.cy, okCost t)) = some (0x0000, 0x11, true, false, some 1) := by decide

/-- R139. -/
theorem test_dec_d :
    after (step { start [0x17] with d := 0x8000 })
      (fun t => (t.d, t.pc, t.z, t.cy, okCost t)) = some (0x7FFF, 0x11, false, false, some 1) := by decide

/-- T21. -/
theorem test_add_ab :
    after (step { start [0x18] with a := 0xFFFF, b := 0xFFFF })
      (fun t => (t.a, t.pc, t.z, t.cy, okCost t)) = some (0xFFFE, 0x11, false, true, some 1) := by decide

/-- T22. -/
theorem test_add_ab_to_zero :
    after (step { start [0x18] with a := 0x8000, b := 0x8000 })
      (fun t => (t.a, t.pc, t.z, t.cy, okCost t)) = some (0x0000, 0x11, true, true, some 1) := by decide

/-- T23. -/
theorem test_sub_ab :
    after (step { start [0x19] with a := 5, b := 7 })
      (fun t => (t.a, t.pc, t.z, t.cy, okCost t)) = some (0xFFFE, 0x11, false, true, some 1) := by decide

/-- T24. -/
theorem test_sub_ab_equal :
    after (step { start [0x19] with a := 0x1234, b := 0x1234, cy := true })
      (fun t => (t.a, t.pc, t.z, t.cy, okCost t)) = some (0x0000, 0x11, true, false, some 1) := by decide

/-- T25. -/
theorem test_cmp_ab :
    after (step { start [0x1A] with a := 3, b := 9 })
      (fun t => (t.a, t.pc, t.z, t.cy, okCost t)) = some (0x0003, 0x11, false, true, some 1) := by decide

/-- T26. -/
theorem test_cmp_ab_unsigned :
    after (step { start [0x1A] with a := 0x8000, b := 1 })
      (fun t => (t.a, t.pc, t.z, t.cy, okCost t)) = some (0x8000, 0x11, false, false, some 1) := by decide

/-- T27. -/
theorem test_and_ab :
    after (step { start [0x1B] with a := 0xF0F0, b := 0x0F0F, cy := true })
      (fun t => (t.a, t.pc, t.z, t.cy, okCost t)) = some (0x0000, 0x11, true, false, some 1) := by decide

/-- T28. -/
theorem test_or_ab :
    after (step { start [0x1C] with a := 0xF000, b := 0x000F })
      (fun t => (t.a, t.pc, t.z, t.cy, okCost t)) = some (0xF00F, 0x11, false, false, some 1) := by decide

/-- T29. -/
theorem test_xor_ab :
    after (step { start [0x1D] with a := 0x5A5A, b := 0x5A5A })
      (fun t => (t.a, t.pc, t.z, t.cy, okCost t)) = some (0x0000, 0x11, true, false, some 1) := by decide

/-- R146. -/
theorem test_not_a :
    after (step { start [0x1E] with a := 0x00F0 })
      (fun t => (t.a, t.pc, t.z, t.cy, okCost t)) = some (0xFF0F, 0x11, false, false, some 1) := by decide

/-- T31. -/
theorem test_add_a_imm :
    after (step { start [0x54, 0x20, 0x00] with a := 0xFFF0 })
      (fun t => (t.a, t.pc, t.z, t.cy, okCost t)) = some (0x0010, 0x13, false, true, some 2) := by decide

/-- T32. -/
theorem test_sub_a_imm :
    after (step { start [0x55, 0x11, 0x00] with a := 0x0010 })
      (fun t => (t.a, t.pc, t.z, t.cy, okCost t)) = some (0xFFFF, 0x13, false, true, some 2) := by decide

/-- T33. -/
theorem test_and_a_imm :
    after (step { start [0x56, 0xFF, 0x00] with a := 0x1234 })
      (fun t => (t.a, t.pc, t.z, t.cy, okCost t)) = some (0x0034, 0x13, false, false, some 2) := by decide

/-- T34. -/
theorem test_or_a_imm :
    after (step { start [0x57, 0x00, 0x80] with a := 1 })
      (fun t => (t.a, t.pc, t.z, t.cy, okCost t)) = some (0x8001, 0x13, false, false, some 2) := by decide

/-- T35. -/
theorem test_xor_a_imm :
    after (step { start [0x58, 0xFF, 0xFF] with a := 0x00FF })
      (fun t => (t.a, t.pc, t.z, t.cy, okCost t)) = some (0xFF00, 0x13, false, false, some 2) := by decide

/-- T36. -/
theorem test_cmp_a_imm :
    after (step { start [0x59, 0x00, 0x01] with a := 0x0100 })
      (fun t => (t.a, t.pc, t.z, t.cy, okCost t)) = some (0x0100, 0x13, true, false, some 2) := by decide

/-- T37. -/
theorem test_mul_ab :
    after (step { start [0xC0, 0x00, 0x00, 0x00, 0x00] with a := 0x012C, b := 0x012C, cy := true })
      (fun t => (t.a, t.pc, t.z, t.cy, okCost t)) = some (0x5F90, 0x15, false, false, some 1) := by decide

/-- T38. -/
theorem test_mul_ab_to_zero :
    after (step { start [0xC0, 0x00, 0x00, 0x00, 0x00] with a := 0x0100, b := 0x0100 })
      (fun t => (t.a, t.pc, t.z, t.cy, okCost t)) = some (0x0000, 0x15, true, false, some 1) := by decide

/-- T41. -/
theorem test_div_ab :
    after (step { start [0xC1, 0x00, 0x00, 0x00, 0x00] with a := 0x03E8, b := 7 })
      (fun t => (t.a, t.b, t.z, t.cy, t.pc)) = some (0x008E, 6, false, false, 0x15) := by decide

/-- T43, S4. -/
theorem test_div_ab_by_zero :
    after (step { start [0xC1, 0x00, 0x00, 0x00, 0x00] with a := 0x03E8, cy := true })
      (fun t => (t.a, t.pc, failure t)) = some (0x03E8, 0x10, some (.divisionByZero, 1)) := by decide

/-- T40, S6. -/
theorem test_shl_by_sixteen :
    after (step { start [0xC2, 0x00, 0x00, 0x00, 0x00] with a := 1, b := 0x10 })
      (fun t => (t.a, t.pc, t.z, t.cy, okCost t)) = some (0x0000, 0x15, true, true, some 1) := by decide

/-- T48. -/
theorem test_shl_count_masked :
    after (step { start [0xC2, 0x00, 0x00, 0x00, 0x00] with a := 0x4000, b := 0x21 })
      (fun t => (t.a, t.pc, t.z, t.cy, okCost t)) = some (0x8000, 0x15, false, false, some 1) := by decide

/-- T50. -/
theorem test_shr_by_four :
    after (step { start [0xC3, 0x00, 0x00, 0x00, 0x00] with a := 0xABCD, b := 4 })
      (fun t => (t.a, t.pc, t.z, t.cy, okCost t)) = some (0x0ABC, 0x15, false, true, some 1) := by decide

/-- T45, S6. -/
theorem test_shr_by_sixteen :
    after (step { start [0xC3, 0x00, 0x00, 0x00, 0x00] with a := 0x8000, b := 0x10 })
      (fun t => (t.a, t.pc, t.z, t.cy, okCost t)) = some (0x0000, 0x15, true, true, some 1) := by decide

/-- T52. -/
theorem test_push_a :
    after (step { start [0x20] with a := 0xABCD })
      (fun t => (t.memRead8 0xFD, t.memRead8 0xFE, t.sp, t.pc, okCost t)) = some (0xCD, 0xAB, 0xFD, 0x11, some 2) := by decide

/-- T54: `sp = 0`. -/
theorem test_push_b :
    after (step { (start [0x21]).setSp 0 with b := 0x0102 })
      (fun t => (t.memRead8 0xFE, t.memRead8 0xFF, t.sp)) = some (0x02, 0x01, 0xFE) := by decide

/-- R183. -/
theorem test_push_c :
    after (step { (start [0x22]).setSp 2 with c := 0xBEEF })
      (fun t => (t.memRead8 0, t.memRead8 1, t.sp)) = some (0xEF, 0xBE, 0) := by decide

/-- T53: the word wraps. -/
theorem test_push_d :
    after (step { (start [0x23]).setSp 1 with d := 0x1234 })
      (fun t => (t.memRead8 0xFF, t.memRead8 0, t.sp)) = some (0x34, 0x12, 0xFF) := by decide

/-- T55. -/
theorem test_pop_a :
    after (step ((poke (start [0x24]) 0xFD [0xCD, 0xAB]).setSp 0xFD))
      (fun t => (t.a, t.sp, t.pc, okCost t)) = some (0xABCD, 0xFF, 0x11, some 2) := by decide

/-- T56: the word wraps. -/
theorem test_pop_b :
    after (step (poke (start [0x25]) 0xFF [0x34, 0x12]))
      (fun t => (t.b, t.sp)) = some (0x1234, 0x01) := by decide

/-- T57. -/
theorem test_pop_c :
    after (step ((poke (start [0x26]) 0xFD [0x08, 0x00]).setSp 0xFD))
      (fun t => (t.c, t.sp)) = some (8, 0xFF) := by decide

/-- R188. -/
theorem test_pop_d :
    after (step (poke (start [0x27]) 0xFF [0x34, 0x12]))
      (fun t => (t.d, t.sp)) = some (0x1234, 0x01) := by decide

/-- T59. -/
theorem test_load_a :
    after (step (poke (start [0x40, 0x0D, 0x00]) 0x20 [0x10, 0x20]))
      (fun t => (t.a, t.pc, okCost t)) = some (0x2010, 0x13, some 2) := by decide

/-- T63. -/
theorem test_load_a_wraps :
    after (step (poke (start [0x40, 0xEC, 0x00]) 0xFF [0x34, 0x12]))
      (fun t => (t.a, t.pc, okCost t)) = some (0x1234, 0x13, some 2) := by decide

/-- T60: over its own bytes. -/
theorem test_store_a :
    after (step { start [0x41, 0xFF, 0xFF] with a := 0xBEEF })
      (fun t => (t.memRead8 0x12, t.memRead8 0x13, t.pc, okCost t)) = some (0xEF, 0xBE, 0x13, some 2) := by decide

/-- T61. -/
theorem test_load_a_byte :
    after (step { poke (start [0x42, 0x0D, 0x00]) 0x20 [0x80] with a := 0xFFFF })
      (fun t => (t.a, t.pc, okCost t)) = some (0x0080, 0x13, some 2) := by decide

/-- T62, with the next byte unchanged. -/
theorem test_store_a_byte :
    after (step { start [0x43, 0x0D, 0x00] with a := 0x1234 })
      (fun t => (t.memRead8 0x20, t.memRead8 0x21, t.pc)) = some (0x34, 0, 0x13) := by decide

/-- T64. -/
theorem test_load_ind :
    after (step { poke (start [0x44, 0x0D, 0x00]) 0x22 [0xF5, 0x01] with b := 2 })
      (fun t => (t.a, t.pc, okCost t)) = some (0x01F5, 0x13, some 2) := by decide

/-- T65. -/
theorem test_store_ind :
    after (step { start [0x45, 0x0D, 0x00] with a := 0x00AA, b := 1 })
      (fun t => (t.memRead8 0x21, t.memRead8 0x22, t.pc)) = some (0xAA, 0, 0x13) := by decide

/-- T66. -/
theorem test_load_ind_byte :
    after (step { poke (start [0x46, 0x0D, 0x00]) 0x22 [0xF5] with b := 2 })
      (fun t => (t.a, t.pc, okCost t)) = some (0x00F5, 0x13, some 2) := by decide

/-- T67: `B >= N`. -/
theorem test_store_ind_byte :
    after (step { start [0x47, 0x0D, 0x00] with a := 0x0177, b := 0x0100 })
      (fun t => (t.memRead8 0x20, t.pc)) = some (0x77, 0x13) := by decide

/-- T68. -/
theorem test_load_reg :
    after (step { poke (start [0x48, 0x03, 0x00]) 0x20 [0x10, 0x20] with d := 0x20 })
      (fun t => (t.a, t.pc, okCost t)) = some (0x2010, 0x13, some 2) := by decide

/-- T69. -/
theorem test_load_reg_through_a :
    after (step { poke (start [0x48, 0x00, 0x00]) 0x20 [0x99, 0x88] with a := 0x0120 })
      (fun t => (t.a, t.pc, okCost t)) = some (0x8899, 0x13, some 2) := by decide

/-- T70. -/
theorem test_store_reg :
    after (step { start [0x49, 0x02, 0x00] with a := 0x0125, c := 0x30 })
      (fun t => (t.memRead8 0x30, t.memRead8 0x31, t.pc)) = some (0x25, 0x01, 0x13) := by decide

/-- T71: bits 7:2 ignored. -/
theorem test_load_reg_byte :
    after (step { poke (start [0x4A, 0xFF, 0x00]) 0x21 [0x20] with d := 0x21 })
      (fun t => (t.a, t.pc, okCost t)) = some (0x0020, 0x13, some 2) := by decide

/-- T72. -/
theorem test_store_reg_byte :
    after (step { start [0x4B, 0xFD, 0x00] with a := 0x00AB, b := 0x01FF })
      (fun t => (t.memRead8 0xFF, t.pc)) = some (0xAB, 0x13) := by decide

/-- T73. -/
theorem test_load_abs :
    after (step (poke (start [0x80, 0x20, 0x00, 0x00]) 0x20 [0x34, 0x12]))
      (fun t => (t.a, t.pc, okCost t)) = some (0x1234, 0x14, some 2) := by decide

/-- T74: the reserved byte is ignored. -/
theorem test_store_abs :
    after (step { start [0x81, 0x30, 0x00, 0x77] with a := 0x0125 })
      (fun t => (t.memRead8 0x30, t.memRead8 0x31, t.pc)) = some (0x25, 0x01, 0x14) := by decide

/-- T75. -/
theorem test_load_abs_byte :
    after (step (poke (start [0x82, 0x21, 0x00, 0x00]) 0x21 [0x12]))
      (fun t => (t.a, t.pc, okCost t)) = some (0x0012, 0x14, some 2) := by decide

/-- T76: `addr16 >= N`. -/
theorem test_store_abs_byte :
    after (step { start [0x83, 0x00, 0x01, 0x00] with a := 0xCAFE })
      (fun t => (t.memRead8 0, t.pc)) = some (0xFE, 0x14) := by decide

/-- T79. -/
theorem test_jmp :
    after (step (start [0x60, 0xF6, 0xFF])) (fun t => (t.pc, okCost t)) = some (0x09, some 3) := by decide

/-- T80. -/
theorem test_jmp_self :
    after (step (start [0x60, 0xFD, 0xFF])) (fun t => (t.pc, okCost t)) = some (0x10, some 3) := by decide

/-- The four flag combinations of a conditional jump with opcode `op` and offset 2, in the order of T93 to T102:
whether it is taken (`pc = 0x15`, 3 cycles) or not (`pc = 0x13`, 1 cycle). -/
def takenOn (op : Byte) : List (Option (Option Bool)) :=
  [(false, false), (true, false), (false, true), (true, true)].map fun f =>
    after (step { start [op, 0x02, 0x00] with z := f.1, cy := f.2 }) fun t =>
      if t.pc = 0x15 ∧ okCost t = some 3 then some true
      else if t.pc = 0x13 ∧ okCost t = some 1 then some false else none

/-- The rows T93 to T102. -/
def takenRow (l : List Bool) : List (Option (Option Bool)) := l.map fun b => some (some b)

/-- T93. -/
theorem test_jz : takenOn 0x61 = takenRow [false, true, false, true] := by decide

/-- T94. -/
theorem test_jnz : takenOn 0x62 = takenRow [true, false, true, false] := by decide

/-- T95. -/
theorem test_jc : takenOn 0x63 = takenRow [false, false, true, true] := by decide

/-- T96. -/
theorem test_jnc : takenOn 0x64 = takenRow [true, true, false, false] := by decide

/-- T97. -/
theorem test_jg : takenOn 0x65 = takenRow [true, false, false, false] := by decide

/-- T98. -/
theorem test_jge : takenOn 0x66 = takenRow [true, true, false, true] := by decide

/-- T99. -/
theorem test_jl : takenOn 0x67 = takenRow [false, false, true, false] := by decide

/-- T100. -/
theorem test_jle : takenOn 0x68 = takenRow [false, true, true, true] := by decide

/-- T101. -/
theorem test_jul : takenOn 0x69 = takenRow [false, false, true, false] := by decide

/-- T102. -/
theorem test_juge : takenOn 0x6A = takenRow [true, true, false, true] := by decide

/-- T87. -/
theorem test_call :
    after (step (poke (State.reset.setPc 0x05) 0x05 [0x6B, 0x02, 0x00]))
      (fun t => (t.memRead8 0xFD, t.memRead8 0xFE, t.sp, t.pc, okCost t)) = some (0x08, 0, 0xFD, 0x0A, some 3) := by decide

/-- R55: `sp = 0x05` and a CALL at 3, whose push overwrites it. -/
theorem test_call_over_itself :
    after (step (poke ((State.reset.setPc 0x03).setSp 0x05) 0x03 [0x6B, 0x02, 0x00]))
      (fun t => (t.memRead8 3, t.memRead8 4, t.sp, t.pc)) = some (0x06, 0, 3, 0x08) := by decide

/-- T91. -/
theorem test_jmp_abs :
    after (step (start [0xB0, 0x00, 0x01, 0x00])) (fun t => (t.pc, okCost t)) = some (0x00, some 3) := by decide

/-- T89. -/
theorem test_ret :
    after (step { (start [0x28]).setSp 0xFD with c := 8 })
      (fun t => (t.pc, t.sp, okCost t)) = some (8, 0xFD, some 3) := by decide

/-- T90. -/
theorem test_ret_wraps :
    after (step { start [0x28] with c := 0x0105 })
      (fun t => (t.pc, okCost t)) = some (0x05, some 3) := by decide

/-- T92. -/
theorem test_call_abs :
    after (step (start [0xB1, 0x40, 0x00, 0x00]))
      (fun t => (t.memRead8 0xFD, t.memRead8 0xFE, t.sp, t.pc, okCost t)) = some (0x14, 0, 0xFD, 0x40, some 3) := by decide

/-! ### UNIT and SPECIAL: the oracles of the vectors -/

/-- The interface of unit 1: the byte 0x42 at unit address 5, every write accepted. -/
def mi1 : MemInterface := { read := ⟨[(0x0005, .ok (some 0x42))], .ok none⟩, write := ⟨[], .ok true⟩ }

/-- Unit 1 of the vectors: accessible, with that interface, not an Assembler. -/
def unit1 : SiblingUnit :=
  { type := .hull, canAccess := .ok true, memIf := .ok (some mi1), assembler := .thrown "none", start := .thrown "none" }

/-- "Asm 2" of the vectors in state `m`, with an answer to Start. -/
def asm2 (m : Assembler) : SiblingUnit :=
  { unit1 with type := .assembler, assembler := .ok m, start := .ok (.started (.hull 3)) }

/-- A context with a unit under selector 1 and one under selector 2, and no other. -/
def ctxOf (u v : SiblingUnit) : UnitContext :=
  { self := 0, lookup := ⟨[(0x01, .ok (some 1)), (0x02, .ok (some 2))], .ok none⟩, units := ⟨[(1, u), (2, v)], unit1⟩,
    energy := ⟨[(0x01, .ok ⟨true, some 0x0320, none⟩), (0x02, .ok ⟨false, none, some "e"⟩)], .ok ⟨true, none, none⟩⟩,
    scan := .ok [0x01, 0x02] }

/-- The Assembler states of the vectors. -/
def idle : Assembler := { isAssembling := false, progress := 0, targetSpec := none }
def producing : Assembler := { isAssembling := true, progress := mkRat 1 2, targetSpec := some (.hull 3) }
def complete : Assembler := { isAssembling := true, progress := 1, targetSpec := some (.hull 3) }

/-- The start state of a vector with a context. -/
def startIn (ctx : UnitContext) (bytes : List Byte) : State := { start bytes with ctx := some ctx }

/-- The Assembler state of unit 2 after a step. -/
def asmState (t : State) : Option (Answer Assembler) := t.ctx.map fun c => (c.units.get 2).assembler

/-- T103. -/
theorem test_unit_no_context :
    after (step (start [0x90, 0x0A, 0x10, 0x00])) (fun t => (t.pc, failure t)) =
      some (0x10, some (.requiresUnitContext, 1)) := by decide

/-- `s` with the digits of its messages in the given case. -/
def withHex (s : State) (h : HexCase) : State :=
  { s with params := { s.params with hexCase := h } }

/-- T104, S9: with the message of R305 in the instance's case, upper by default. -/
theorem test_unit_not_found :
    after (step (startIn (ctxOf unit1 unit1) [0x90, 0x0A, 0x10, 0x00])) (fun t => (t.a, t.pc, failure t)) =
      some (0, 0x10, some (.unitNotFound 0x0A, 1)) ∧
    after (step (startIn (ctxOf unit1 unit1) [0x90, 0x0A, 0x10, 0x00])) (fun t => t.message) =
      some (some "Unit not found: 0x0A") ∧
    after (step (withHex (startIn (ctxOf unit1 unit1) [0x90, 0x0A, 0x10, 0x00]) .lower)) (fun t => t.message) =
      some (some "Unit not found: 0x0a") := by decide

/-- T105. -/
theorem test_unit_access_denied :
    after (step (startIn (ctxOf { unit1 with canAccess := .ok false } unit1) [0x90, 0x01, 0x05, 0x00])) failure =
      some (some (.accessDenied 0x01, 1)) := by decide

/-- T106. -/
theorem test_unit_no_interface :
    after (step (startIn (ctxOf { unit1 with memIf := .ok none } unit1) [0x90, 0x01, 0x05, 0x00])) failure =
      some (some (.noMemoryInterface 0x01, 1)) := by decide

/-- T107, at an address the interface answers null for. -/
theorem test_unit_read_rejected :
    after (step { startIn (ctxOf unit1 unit1) [0x90, 0x01, 0x06, 0x00] with a := 7 }) (fun t => (t.a, failure t)) =
      some (7, some (.memoryReadRejected 0x01 0x0006, 1)) := by decide

/-- T108. -/
theorem test_unit_mem_read :
    after (step { startIn (ctxOf unit1 unit1) [0x90, 0x01, 0x05, 0x00] with a := 0xFFFF })
      (fun t => (t.a, t.pc, okCost t)) = some (0x0042, 0x14, some 3) := by decide

/-- T109: exactly one write is sent. -/
theorem test_unit_mem_write :
    after (step { startIn (ctxOf unit1 unit1) [0x91, 0x01, 0x05, 0x00] with a := 0x1234 })
      (fun t => (t.calls, t.pc, okCost t)) =
      some ([.lookup 0x01, .canAccess 0 1, .memIf 1, .writeMemory 1 0x0005 0x34], 0x14, some 3) := by decide

/-- T110, and its cost under the alternative reading of FAIL_CYCLES (R303). -/
theorem test_unit_write_rejected :
    after (step { startIn (ctxOf { unit1 with memIf := .ok (some { mi1 with write := ⟨[], .ok false⟩ }) } unit1)
      [0x91, 0x01, 0x05, 0x00] with params := { Params.defaults MemSize.scenario with failCycles := .threeForUnit } })
      (fun t => (t.pc, failure t)) = some (0x10, some (.memoryWriteRejected 0x01 0x0005, 3)) := by decide

/-- T111. -/
theorem test_unit_mem_write_dyn :
    after (step { startIn (ctxOf unit1 unit1) [0x92, 0x01, 0x00, 0x00] with a := 0x00FF, b := 3 })
      (fun t => (t.calls.getLast?, t.b, t.pc, okCost t)) =
      some (some (.writeMemory 1 0x0003 0xFF), 3, 0x14, some 3) := by decide

/-- T112. -/
theorem test_assemble_stop :
    after (step (startIn (ctxOf unit1 (asm2 producing)) [0xF3, 0x02, 0x01, 0x00, 0x00]))
      (fun t => (t.a, asmState t, t.pc, okCost t)) = some (1, some (.ok idle), 0x15, some 5) := by decide

/-- T114 to T116. -/
theorem test_assemble_query :
    [idle, producing, complete].map (fun m =>
      after (step (startIn (ctxOf unit1 (asm2 m)) [0xF3, 0x02, 0x02, 0x00, 0x00])) fun t => (t.a, okCost t)) =
      [some (0, some 5), some (1, some 5), some (2, some 5)] := by decide

/-- T117: Start while producing. -/
theorem test_assemble_start_busy :
    after (step { startIn (ctxOf unit1 (asm2 producing)) [0xF3, 0x02, 0x00, 0x00, 0x00] with a := 9 })
      (fun t => (t.a, asmState t, okCost t)) = some (0, some (.ok producing), some 5) := by decide

/-- T118: Start from Idle. -/
theorem test_assemble_start :
    after (step (startIn (ctxOf unit1 (asm2 idle)) [0xF3, 0x02, 0x00, 0x00, 0x00]))
      (fun t => (t.a, asmState t, okCost t)) =
      some (1, some (.ok { isAssembling := true, progress := 0, targetSpec := some (.hull 3) }), some 5) := by
  decide

/-- T119 to T121: the failures of ASSEMBLE. -/
theorem test_assemble_failures :
    [[0xF3, 0x02, 0x07, 0x00, 0x00], [0xF3, 0x09, 0x07, 0x00, 0x00], [0xF3, 0x01, 0x02, 0x00, 0x00]].map (fun bytes =>
      after (step (startIn (ctxOf unit1 (asm2 idle)) bytes)) failure) =
      [some (some (.invalidAssembleCommand 0x07, 1)), some (some (.unitNotFound 0x09, 1)),
       some (some (.unitNotFound 0x01, 1))] := by decide

/-- T122, T128, T132: no context. -/
theorem test_special_no_context :
    [[0xF3, 0x01, 0x01, 0x00, 0x00], [0xF0, 0x40, 0x00, 0x00, 0x00], [0xF2, 0x01, 0x00, 0x00, 0x00]].map (fun bytes =>
      after (step (start bytes)) failure) =
      [some (some (.requiresUnitContext, 1)), some (some (.requiresUnitContext, 1)),
       some (some (.requiresUnitContext, 1))] := by decide

/-- T123. -/
theorem test_scanm :
    after (step { poke (start [0xF1, 0x20, 0x00, 0x30, 0x00]) 0x20 [0x01, 0x02, 0x03] with c := 0x0103 })
      (fun t => ([0x30, 0x31, 0x32, 0x33].map t.memRead8, t.c, t.pc, okCost t)) =
      some ([0x01, 0x02, 0x03, 0x00], 0x0103, 0x15, some 8) := by decide

/-- T124: the overlapping forward copy. -/
theorem test_scanm_overlap :
    after (step { poke (start [0xF1, 0x20, 0x00, 0x21, 0x00]) 0x20 [0xAA, 0xBB, 0xCC] with c := 0x0003 })
      (fun t => [0x21, 0x22, 0x23].map t.memRead8) = some [0xAA, 0xAA, 0xAA] := by decide

/-- T127. -/
theorem test_scan :
    after (step (startIn (ctxOf unit1 unit1) [0xF0, 0xFF, 0x00, 0x00, 0x00]))
      (fun t => (t.memRead8 0xFF, t.memRead8 0x00, t.pc, okCost t)) = some (0x01, 0x02, 0x15, some 5) := by decide

/-- T129. -/
theorem test_energy :
    after (step (startIn (ctxOf unit1 unit1) [0xF2, 0x01, 0x00, 0x00, 0x00])) (fun t => (t.a, t.pc, okCost t)) =
      some (0x0320, 0x15, some 5) := by decide

/-- T130: no value; T131: the failure. -/
theorem test_energy_no_value_and_failure :
    after (step { startIn (ctxOf unit1 unit1) [0xF2, 0x03, 0x00, 0x00, 0x00] with a := 9 }) (fun t => (t.a, okCost t)) =
      some (0, some 5) ∧
    after (step (startIn (ctxOf unit1 unit1) [0xF2, 0x02, 0x00, 0x00, 0x00])) failure =
      some (some (.energyCommandFailed (some "e"), 1)) := by decide

/-! ### Failures and the run loop -/

/-- T133 to T137: undefined opcodes of each length; the flags stay. -/
theorem test_undefined :
    [[0x1F], [0x29], [0x4C, 0x00, 0x00], [0xB2, 0x00, 0x00, 0x00], [0xFF, 0x01, 0x02, 0x03, 0x04]].map (fun bytes =>
      after (step { start bytes with z := true, cy := true }) fun t => (t.pc, t.z, t.cy, (failure t).map Prod.snd)) =
      List.replicate 5 (some (0x10, true, true, some 1)) := by decide

/-- T138: `maxCycles = 0` runs no step. -/
theorem test_run_without_budget : after (State.reset.run 0) (fun t => (t.used, t.pc, t.result)) = some (0, 0, none) := by
  decide

/-- T125, T139: `C & 0xFF = 0` copies 256 bytes, at 261 cycles. -/
theorem test_run_scanm_longest :
    after ((poke State.reset 0 [0xF1, 0x40, 0x00, 0x40, 0x00]).run 1) (fun t => (t.used, t.pc)) = some (261, 5) := by
  decide +kernel

/-- T140: a failing first step ends the tick. -/
theorem test_run_halts_on_failure :
    after ((poke State.reset 0 [0x1F]).run 100) (fun t => (t.used, t.pc, failure t)) =
      some (1, 0, some (.undefinedInstruction 0x1F, 1)) := by decide

/-- T141: the next tick repeats it. -/
theorem test_run_fails_again :
    after ((poke State.reset 0 [0x1F]).run 100) (fun t => after (t.run 100) fun u => (u.used, u.pc, failure u)) =
      some (some (1, 0, some (.undefinedInstruction 0x1F, 1))) := by decide

/-- Construction refuses what R331 says. -/
theorem test_construct_refuses :
    refusalOf (construct (Params.defaults size1) 0 none) = some .invalidSize ∧
    refusalOf (construct (Params.defaults size1) 65537 none) = some .invalidSize ∧
    refusalOf (construct (Params.defaults size1) 2 (some [0x00])) = some .sizeMismatch := by decide

/-- Construction takes the buffer as the memory (R330). -/
theorem test_construct_buffer :
    (construct (Params.defaults size1) 2 (some [0x10, 0x20])).toOption.map (fun s => (s.memRead8 0, s.memRead8 1, s.sp)) =
      some (0x10, 0x20, 1) := by decide
/-! ### Witnesses: for each statement with hypotheses, a state and operands that meet them -/

/-- An instruction's bytes at `pc` (`FetchFollowsLengthLaw`): an opcode at each end of each range of R60. -/
theorem witness_FetchFollowsLengthLaw :
    [0x00, 0x3F, 0x40, 0x7F, 0x80, 0xBF, 0xC0, 0xFF].map (fun op => ((start [op]).decodeAt 0x10).opcode.toNat) =
      [0x00, 0x3F, 0x40, 0x7F, 0x80, 0xBF, 0xC0, 0xFF] := by decide

/-- A map that is not the default one has bytes for its mnemonics, and none for the others. -/
theorem witness_DecodeOfEncodeIsIdentity :
    encodeWith otherMap .byte1 (.assemble 0x02 0x01) = some [0xFF, 0x02, 0x01, 0x00, 0x00] ∧
    (0xFF, Instr.mnemonic (.assemble 0x02 0x01)) ∈ otherMap.rows ∧ encodeWith otherMap .byte1 .ret = none ∧
    encodeWith .default .byte2 (.loadAbs 0x1234) = some [0x80, 0x00, 0x34, 0x12] := by decide

/-- Two snapshots that differ in reserved bytes alone, of an F5I and of an F3X instruction. -/
theorem witness_ReservedBytesAreIgnored :
    (0xE0, .loadImm) ∈ OpcodeMap.default.rows ∧ (insAt [0xE0, 0x05, 0x00, 0xAA, 0xBB] 0).toNat = 0xE0 ∧
    Mnemonic.loadImm.form.format = .f5i ∧
    (∀ k ∈ usedBytes .byte1 .f5i, insAt [0xE0, 0x05, 0x00, 0x00, 0x00] k = insAt [0xE0, 0x05, 0x00, 0xAA, 0xBB] k) ∧
    (0x48, .loadReg) ∈ OpcodeMap.default.rows ∧ (insAt [0x48, 0xFF, 0x77] 0).toNat = 0x48 ∧
    Mnemonic.loadReg.form.format = .f3x ∧
    (∀ k ∈ usedBytes .byte1 .f3x, insAt [0x48, 0x03, 0x00] k = insAt [0x48, 0xFF, 0x77] k) ∧
    (insAt [0x48, 0x03, 0x00] 1).toNat % 4 = (insAt [0x48, 0xFF, 0x77] 1).toNat % 4 := by decide

/-- The first and the last opcode of R79's list at `pc`, and one that another map does not assign. -/
theorem witness_UndefinedOpcodesFail :
    State.reset.params.opcodeMap.assigns ((start [0x1F]).memRead8 (start [0x1F]).pc) = false ∧
    State.reset.params.opcodeMap.assigns ((start [0xFF]).memRead8 (start [0xFF]).pc) = false ∧
    otherReset.params.opcodeMap.assigns ((poke otherReset 0 [0x10]).memRead8 0) = false := by decide

/-- A 5-byte instruction across the top of memory. -/
theorem witness_StepRunsTheDecodedInstruction :
    decode .default .byte1 ((poke (State.reset.setPc 0xFE) 0xFE [0xE0, 0x34, 0x12, 0x00, 0x00]).fetchBytes 0xFE 5) =
      .ok (.loadImm 0x1234, []) := by decide

/-- The bytes of ASSEMBLE at `pc`, and of LOAD_IMM across the top of memory. -/
theorem witness_StepRunsTheEncodedInstruction :
    encodeWith .default .byte1 (.assemble 0x02 0x01) = some [0xF3, 0x02, 0x01, 0x00, 0x00] ∧
    (∀ k < 5, (start [0xF3, 0x02, 0x01, 0x00, 0x00]).mem.read ((0x10 + k) % 256) =
      [0xF3, 0x02, 0x01, 0x00, 0x00].getD k 0) ∧
    encodeWith .default .byte1 (.loadImm 0x1234) = some [0xE0, 0x34, 0x12, 0x00, 0x00] ∧
    (∀ k < 5, (poke (State.reset.setPc 0xFE) 0xFE [0xE0, 0x34, 0x12, 0x00, 0x00]).mem.read ((0xFE + k) % 256) =
      [0xE0, 0x34, 0x12, 0x00, 0x00].getD k 0) := by decide

/-- A step that fails: DIV_AB with B = 0, the environment giving nothing (`FailedStepChangesNothing`,
`FailureCodesComeFromTheirCauses`, `FailureRepeatsOnTheNextTick`). -/
theorem witness_failing_step :
    (start [0xC1, 0x00, 0x00, 0x00, 0x00]).inputs = [] ∧
    after (step (start [0xC1, 0x00, 0x00, 0x00, 0x00])) failure = some (some (.divisionByZero, 1)) ∧
    after (exec .divAB State.reset) failure = some (some (.divisionByZero, 1)) ∧
    after (step (start [0x1F])) failure = some (some (.undefinedInstruction 0x1F, 1)) := by decide

/-- A failed step of each fixed text, and a success (`FailedStepReportsItsMessage`). -/
theorem witness_FailedStepReportsItsMessage :
    after (step (startIn (ctxOf unit1 unit1) [0x90, 0x0A, 0x10, 0x00])) failure = some (some (.unitNotFound 0x0A, 1)) ∧
    after (step (start [0xC1, 0x00, 0x00, 0x00, 0x00])) (fun t => (failure t, t.message)) =
      some (some (.divisionByZero, 1), some "Division by zero") ∧
    after (step (start [0x00])) (fun t => (okCost t, t.message)) = some (some 1, none) := by decide

/-- Two states that differ in the run loop's state and the outputs of the steps before alone. -/
theorem witness_RunLoopStateIsInvisible :
    ({ State.reset with used := 7, halted := true, calls := [.lookup 0] } : State).toVMState = State.reset.toVMState ∧
    ({ State.reset with used := 7, halted := true, calls := [.lookup 0] } : State).params = State.reset.params ∧
    ({ State.reset with used := 7, halted := true, calls := [.lookup 0] } : State).ctx = State.reset.ctx ∧
    ({ State.reset with used := 7, halted := true, calls := [.lookup 0] } : State).inputs = State.reset.inputs :=
  ⟨rfl, rfl, rfl, rfl⟩

/-- A state of the invariant that steps on (`StepKeepsInvariant`, `StepKeepsParameters`), at the largest and the smallest
size. -/
theorem witness_StepKeepsInvariant :
    State.reset.Wf ∧ after (step State.reset) okCost = some (some 1) ∧
    (resetAt size1).Wf ∧ after (step (resetAt size1)) okCost = some (some 1) ∧
    (resetAt ⟨65536, by decide, by decide⟩).Wf := by decide

/-- PUSH_A writes memory and `sp` and is not ARITHMETIC; INC_A writes A; NOP reads no flag
(`FlagsAreWrittenByArithmeticAndReadByConditionalJumps`, `RegistersAreWrittenByTheirWriters`,
`MemoryAndStackPointerAreWrittenByTheirWriters`). -/
theorem witness_writers :
    after (exec .pushA { State.reset with a := 0x1234 }) (fun t => decide (t.mem ≠ [] ∧ t.sp ≠ 0xFF)) = some true ∧
    Instr.category .pushA ≠ .arithmetic ∧ readsFlags .nop = false ∧
    after (exec .incA State.reset) (fun t => t.reg .a) = some 1 := by decide

/-- A success and a failure, of each shape of cost (`CyclesFollowTheTable`). -/
theorem witness_CyclesFollowTheTable :
    after (exec (.jz 0) State.reset) okCost = some (some 1) ∧
    after (exec (.scanm 0 0) { State.reset with c := 1 }) okCost = some (some 6) ∧
    after (exec .nop State.reset) okCost = some (some 1) ∧
    after (exec (.unitMemRead 0 0) State.reset) failure = some (some (.requiresUnitContext, 1)) ∧
    after (exec (.unitMemRead 0 0) { State.reset with
      params := { Params.defaults MemSize.scenario with failCycles := .threeForUnit } }) failure =
      some (some (.requiresUnitContext, 3)) := by decide

/-- `sp` below `N` (`NopExchangeAndStackPointerTransfer`), at both ends. -/
theorem witness_NopExchangeAndStackPointerTransfer :
    State.reset.sp < State.reset.size ∧ (resetAt size1).sp < (resetAt size1).size := by decide

/-- Every shape of the shift count (`ShiftLeftMovesBitsUp`, `ShiftRightMovesBitsDown`): 0, 1, 15, 16, 31, and 32 as 0. -/
theorem witness_shift_count :
    [0, 1, 15, 16, 31, 32].map (fun b => (BitVec.ofNat 16 b).toNat % 32) = [0, 1, 15, 16, 31, 0] := by decide

/-- The sizes of the three clauses, and an address outside the word (`WordWriteReadsBack`). -/
theorem witness_WordWriteReadsBack :
    2 ≤ (resetAt size2).size ∧ (resetAt size1).size = 1 ∧
    (2 : Int) % State.reset.size ≠ 0xFF % State.reset.size ∧
    (2 : Int) % State.reset.size ≠ (0xFF + 1) % State.reset.size := by decide

/-- Both readings of the indexed address (`EffectiveAddressesAreReducedModN`). -/
theorem witness_EffectiveAddressesAreReducedModN :
    State.reset.params.indexedEA = .pcrelPlusB ∧
    (State.resetWith { Params.defaults size32 with indexedEA := .bPlusOff }).params.indexedEA = .bPlusOff := by decide

/-- The first and the last row of each list of instructions without another premise. -/
theorem witness_RegisterCopiesMoveSourceToDestination :
    (.movAB, 0x01, .a, .b) ∈ copyRows ∧ (.movDC, 0x0C, .d, .c) ∈ copyRows := by decide

theorem witness_ImmediateLoadsWriteTheImmediate :
    (.movAImm 0xFFFF, 0x50, .a, 3, 2) ∈ immediateRows 0xFFFF ∧ (.loadImmB 0, 0xE1, .b, 5, 1) ∈ immediateRows 0 := by
  decide

theorem witness_IncrementAndDecrement :
    (.incA, 0x10, .a) ∈ incRows ∧ (.incD, 0x13, .d) ∈ incRows ∧ (.decA, 0x14, .a) ∈ decRows ∧
    (.decD, 0x17, .d) ∈ decRows := by decide

theorem witness_AdditionSetsCarryFromTheTrueSum :
    (.addAB, [0x18], 0, 1, 1) ∈ addRows State.reset 0x1234 ∧
    (.addAImm 0x1234, [0x54, 0x34, 0x12], 0x1234, 3, 2) ∈ addRows State.reset 0x1234 := by decide

theorem witness_SubtractionAndComparisonSetBorrow :
    (.subAB, [0x19], 0, 1, 1, true) ∈ subRows State.reset 0x1234 ∧
    (.cmpAImm 0x1234, [0x59, 0x34, 0x12], 0x1234, 3, 2, false) ∈ subRows State.reset 0x1234 := by decide

theorem witness_LogicWorksBitwiseAndClearsCarry :
    (.andAB, [0x1B], and, 0, 1, 1) ∈ logicRows State.reset 0x1234 ∧
    (.xorAImm 0x1234, [0x58, 0x34, 0x12], xor, 0x1234, 3, 2) ∈ logicRows State.reset 0x1234 := by
  refine ⟨List.mem_cons_self, ?_⟩
  repeat first | exact List.mem_cons_self | apply List.mem_cons_of_mem

theorem witness_PopLoadsTheWordAtTheStack :
    (.popA, 0x24, .a) ∈ popRows ∧ (.popD, 0x27, .d) ∈ popRows := by decide

theorem witness_LoadsReadTheEffectiveAddress :
    (.loadA 0x000D, [0x40, 0x0D, 0x00], 0x20, true) ∈ loadRows (start []) 0x000D 0x1234 .d ∧
    (.loadAbsByte 0x1234, [0x82, 0x34, 0x12, 0x00], 0x34, false) ∈ loadRows (start []) 0x000D 0x1234 .d := by decide

theorem witness_UnconditionalJumpsSetPc :
    (.jmp 0xFFF6, [0x60, 0xF6, 0xFF], 0x09) ∈ jumpRows (start []) 0xFFF6 0x1234 ∧
    (.ret, [0x28], 0) ∈ jumpRows (start []) 0xFFF6 0x1234 := by decide

theorem witness_ConditionalJumpsFollowTheFlags :
    (.jz 2, 0x61, false) ∈ conditionalRows State.reset 2 ∧ (.juge 2, 0x6A, true) ∈ conditionalRows State.reset 2 := by
  decide

/-- A comparison with a relation that holds and one that does not. -/
theorem witness_ComparisonThenConditionalIsUnsigned :
    (.cmpAB, 0) ∈ compareRows State.reset 0 ∧ (.cmpAImm 9, 9) ∈ compareRows State.reset 9 ∧
    (.jl 2, State.reset.a.toNat < (9 : Word).toNat) ∈ relationRows State.reset 2 9 ∧
    State.reset.a.toNat < (9 : Word).toNat ∧
    (.jge 2, State.reset.a.toNat ≥ (9 : Word).toNat) ∈ relationRows State.reset 2 9 ∧
    ¬ State.reset.a.toNat ≥ (9 : Word).toNat := by
  refine ⟨by decide, by decide, ?_, by decide, ?_, by decide⟩ <;>
    repeat first | exact List.mem_cons_self | apply List.mem_cons_of_mem

/-- A push where the word wraps, in canonical memory that is not empty. -/
theorem witness_PushStoresTheRegisterBelowTheStack :
    ((start [0x23]).setSp 1).mem.wf = true ∧ (.pushA, 0x20, .a) ∈ pushRows ∧
    (.pushD, 0x23, .d) ∈ pushRows := by decide

/-- `N = 2`, the least size of the premise. -/
theorem witness_PopAfterPushGivesTheValueBack :
    (resetAt size2).Wf ∧ 2 ≤ (resetAt size2).size ∧ (.pushA, 0x20, .a) ∈ pushRows ∧ (.popD, 0x27, .d) ∈ popRows := by
  decide

theorem witness_StoresWriteTheEffectiveAddress :
    (start [0x41, 0x0D, 0x00]).mem.wf = true ∧
    (.storeA 0x000D, [0x41, 0x0D, 0x00], 0x20, true) ∈ storeRows (start [0x41, 0x0D, 0x00]) 0x000D 0x1234 .d ∧
    (.storeAbsByte 0x1234, [0x83, 0x34, 0x12, 0x00], 0x34, false) ∈
      storeRows (start [0x41, 0x0D, 0x00]) 0x000D 0x1234 .d := by decide

/-- Both calls, the first at `N - 3`, where the return address wraps to 0 (T88). -/
theorem witness_CallsPushTheReturnAddress :
    State.reset.mem.wf = true ∧
    (.call 0, [0x6B, 0x00, 0x00], 0x100) ∈ callRows (State.reset.setPc 0xFD) 0 0x0040 ∧
    (0 : Word).toNat = (0xFD + [0x6B, (0 : Byte), 0].length) % State.reset.size ∧
    (.callAbs 0x0040, [0xB1, 0x40, 0x00, 0x00], 0x40) ∈ callRows (start []) 0 0x0040 ∧
    (0x0014 : Word).toNat = (0x10 + [0xB1, (0x40 : Byte), 0, 0].length) % State.reset.size := by decide

theorem witness_PopCThenRetReturnsFromCall : (resetAt size2).Wf ∧ 2 ≤ (resetAt size2).size := by decide

/-- The context of T108. -/
theorem witness_UnitReadLoadsTheAnsweredByte :
    (startIn (ctxOf unit1 unit1) []).ctx = some (ctxOf unit1 unit1) ∧ reaches (ctxOf unit1 unit1) 0x01 1 ∧
    ((ctxOf unit1 unit1).units.get 1).memIf = .ok (some mi1) ∧ mi1.read.get 0x0005 = .ok (some 0x42) :=
  ⟨rfl, ⟨rfl, rfl⟩, rfl, rfl⟩

/-- The context of T109 and T111. -/
theorem witness_UnitWriteSendsTheLowByteOfA :
    (startIn (ctxOf unit1 unit1) []).ctx = some (ctxOf unit1 unit1) ∧ reaches (ctxOf unit1 unit1) 0x01 1 ∧
    ((ctxOf unit1 unit1).units.get 1).memIf = .ok (some mi1) ∧
    (.unitMemWrite 0x01 5, [0x91, 0x01, 0x05, 0x00], 5) ∈ unitWriteRows State.reset 0x01 5 ∧
    (.unitMemWriteDyn 0x01, [0x92, 0x01, 0x00, 0x00], 0) ∈ unitWriteRows State.reset 0x01 5 ∧
    mi1.write.get (5, 0x34) = .ok true :=
  ⟨rfl, ⟨rfl, rfl⟩, rfl, by decide, by decide, rfl⟩

/-- A context for each check of R250 that fails; the read of an address that answers null, a write that is rejected. -/
theorem witness_UnitFailuresComeInOrder :
    .unitMemRead 0x01 5 ∈ ([.unitMemRead 0x01 5, .unitMemWrite 0x01 5, .unitMemWriteDyn 0x01] : List Instr) ∧
    State.reset.ctx = none ∧ (ctxOf unit1 unit1).lookup.get 0x0A = .ok none ∧
    ((ctxOf { unit1 with canAccess := .ok false } unit1).units.get 1).canAccess = .ok false ∧
    ((ctxOf { unit1 with memIf := .ok none } unit1).units.get 1).memIf = .ok none ∧
    reaches (ctxOf { unit1 with memIf := .ok none } unit1) 0x01 1 ∧ mi1.read.get 6 = .ok none ∧
    ({ mi1 with write := ⟨[], .ok false⟩ } : MemInterface).write.get (5, 0) = .ok false :=
  ⟨by decide, rfl, rfl, rfl, rfl, ⟨rfl, rfl⟩, rfl, rfl⟩

/-- Each call of a UNIT instruction, of SCAN and of ENERGY that can throw. -/
theorem witness_ThrownCallsBecomeInternalError :
    (startIn (ctxOf unit1 unit1) []).ctx = some (ctxOf unit1 unit1) ∧
    ({ ctxOf unit1 unit1 with lookup := ⟨[], .thrown "x"⟩ } : UnitContext).lookup.get 0x01 = .thrown "x" ∧
    (ctxOf { unit1 with canAccess := .thrown "x" } unit1).lookup.get 0x01 = .ok (some 1) ∧
    ((ctxOf { unit1 with canAccess := .thrown "x" } unit1).units.get 1).canAccess = .thrown "x" ∧
    ((ctxOf { unit1 with memIf := .thrown "x" } unit1).units.get 1).memIf = .thrown "x" ∧
    reaches (ctxOf { unit1 with memIf := .thrown "x" } unit1) 0x01 1 ∧
    ({ mi1 with read := ⟨[], .thrown "x"⟩ } : MemInterface).read.get 5 = .thrown "x" ∧
    (.unitMemWrite 0x01 5, [0x91, 0x01, 0x05, 0x00], 5) ∈ unitWriteRows State.reset 0x01 5 ∧
    (.unitMemWriteDyn 0x01, [0x92, 0x01, 0x00, 0x00], 0) ∈ unitWriteRows State.reset 0x01 5 ∧
    ({ mi1 with write := ⟨[], .thrown "x"⟩ } : MemInterface).write.get (5, 0) = .thrown "x" ∧
    ({ ctxOf unit1 unit1 with scan := .thrown "x" } : UnitContext).scan = .thrown "x" ∧
    ({ ctxOf unit1 unit1 with energy := ⟨[], .thrown "x"⟩ } : UnitContext).energy.get 1 = .thrown "x" :=
  ⟨rfl, rfl, rfl, rfl, rfl, ⟨rfl, rfl⟩, rfl, by decide, by decide, rfl, rfl, rfl⟩

/-- Each call of ASSEMBLE that can throw (`ThrownCallsBecomeInternalError`). -/
theorem witness_ThrownCallsOfAssemble :
    (ctxOf unit1 { asm2 idle with canAccess := .thrown "x" }).lookup.get 0x02 = .ok (some 2) ∧
    ((ctxOf unit1 { asm2 idle with canAccess := .thrown "x" }).units.get 2).type = .assembler ∧
    ((ctxOf unit1 { asm2 idle with canAccess := .thrown "x" }).units.get 2).canAccess = .thrown "x" ∧
    reachesAssembler (ctxOf unit1 { asm2 idle with assembler := .thrown "x" }) 0x02 2 ∧
    ((ctxOf unit1 { asm2 idle with assembler := .thrown "x" }).units.get 2).assembler = .thrown "x" ∧
    (2 : Byte).toNat ≤ 2 ∧
    reachesAssembler (ctxOf unit1 { asm2 idle with memIf := .thrown "x" }) 0x02 2 ∧
    ((ctxOf unit1 { asm2 idle with memIf := .thrown "x" }).units.get 2).assembler = .ok idle ∧
    idle.isAssembling = false ∧
    ((ctxOf unit1 { asm2 idle with memIf := .thrown "x" }).units.get 2).memIf = .thrown "x" ∧
    reachesAssembler (ctxOf unit1 { asm2 idle with start := .thrown "x" }) 0x02 2 ∧
    ((ctxOf unit1 { asm2 idle with start := .thrown "x" }).units.get 2).memIf = .ok (some mi1) ∧
    ((ctxOf unit1 { asm2 idle with start := .thrown "x" }).units.get 2).start = .thrown "x" :=
  ⟨rfl, rfl, rfl, ⟨⟨rfl, rfl⟩, rfl⟩, rfl, by decide, ⟨⟨rfl, rfl⟩, rfl⟩, rfl, rfl, rfl, ⟨⟨rfl, rfl⟩, rfl⟩, rfl, rfl⟩

/-- Both cases of the digits (`FailureMessagesCarryTheFixedTexts`; `hex2(0x0A)` is R251's example). -/
theorem witness_FailureMessagesCarryTheFixedTexts :
    "0123456789ABCDEF".toList.getD ((0x0A : Byte).toNat % 16) '?' = 'A' ∧
    "0123456789abcdef".toList.getD ((0x0A : Byte).toNat % 16) '?' = 'a' := by decide

/-- Two bytes that wrap at the top of memory, with an address outside them. -/
theorem witness_ScanWritesTheSerialisedSpec :
    (startIn (ctxOf unit1 unit1) [0xF0, 0xFF, 0x00, 0x00, 0x00]).mem.wf = true ∧
    (startIn (ctxOf unit1 unit1) []).ctx = some (ctxOf unit1 unit1) ∧ (ctxOf unit1 unit1).scan = .ok [0x01, 0x02] ∧
    State.reset.ctx = none ∧ ({ ctxOf unit1 unit1 with scan := .thrown "x" } : UnitContext).scan = .thrown "x" ∧
    [(0x01 : Byte), 0x02].length ≤ State.reset.size ∧
    (∀ k < 2, (5 : Int) % State.reset.size ≠ ((0xFF : Int) + (k : Nat)) % State.reset.size) :=
  ⟨by decide, rfl, rfl, rfl, rfl, by decide, by decide⟩

/-- Both clauses of the length, a source disjoint from the destination, and an address outside the destination. -/
theorem witness_ScanmCopiesForward :
    State.reset.mem.wf = true ∧
    256 = (if State.reset.c.toNat % 256 = 0 then (if State.reset.params.scanmZeroLen = .len256 then 256 else 1)
      else State.reset.c.toNat % 256) ∧
    (0x0103 : Word).toNat % 256 = 3 ∧
    (∀ j < 3, ∀ k < 3, ((0x20 : Int) + (j : Nat)) % State.reset.size ≠ ((0x30 : Int) + (k : Nat)) % State.reset.size) ∧
    3 ≤ State.reset.size ∧ (∀ k < 3, (0x33 : Int) % State.reset.size ≠ ((0x30 : Int) + (k : Nat)) % State.reset.size) := by
  decide

/-- The longest copy of the premise: 255 bytes at N = 256. -/
theorem witness_ScanmOverlapRepeatsTheFirstByte :
    ({ State.reset with c := 0x00FF } : State).mem.wf = true ∧ (0x0021 : Word).toNat = (0x0020 : Word).toNat + 1 ∧
    (0x00FF : Word).toNat % 256 ≠ 0 ∧ (0x00FF : Word).toNat % 256 < State.reset.size := by decide

/-- No context; a success; a failure. -/
theorem witness_EnergyWritesTheAnsweredValue :
    State.reset.ctx = none ∧ (startIn (ctxOf unit1 unit1) []).ctx = some (ctxOf unit1 unit1) ∧
    (ctxOf unit1 unit1).energy.get 1 = .ok ⟨true, some 0x0320, none⟩ ∧
    (ctxOf unit1 unit1).energy.get 2 = .ok ⟨false, none, some "e"⟩ := ⟨rfl, rfl, rfl, rfl⟩

/-- A context for each check of ASSEMBLE that fails, the command at its first invalid value. -/
theorem witness_AssembleChecksInOrder :
    State.reset.ctx = none ∧ (ctxOf unit1 (asm2 idle)).lookup.get 0x09 = .ok none ∧
    (ctxOf unit1 (asm2 idle)).lookup.get 0x01 = .ok (some 1) ∧
    ((ctxOf unit1 (asm2 idle)).units.get 1).type ≠ .assembler ∧
    (ctxOf unit1 { asm2 idle with canAccess := .ok false }).lookup.get 0x02 = .ok (some 2) ∧
    ((ctxOf unit1 { asm2 idle with canAccess := .ok false }).units.get 2).type = .assembler ∧
    ((ctxOf unit1 { asm2 idle with canAccess := .ok false }).units.get 2).canAccess = .ok false ∧
    reaches (ctxOf unit1 (asm2 idle)) 0x02 2 ∧ ((ctxOf unit1 (asm2 idle)).units.get 2).type = .assembler ∧
    2 < (3 : Byte).toNat :=
  ⟨rfl, rfl, rfl, by decide, rfl, rfl, rfl, ⟨rfl, rfl⟩, rfl, by decide⟩

/-- Each state of an Assembler under selector 2 (`AssembleQueryReportsTheStatus`, `AssembleStopIsIdempotent`,
`AssembleStartStartsAnIdleAssembler`). -/
theorem witness_Assembler_states :
    (∀ m, (startIn (ctxOf unit1 (asm2 m)) []).ctx = some (ctxOf unit1 (asm2 m)) ∧
      reaches (ctxOf unit1 (asm2 m)) 0x02 2 ∧ ((ctxOf unit1 (asm2 m)).units.get 2).type = .assembler ∧
      ((ctxOf unit1 (asm2 m)).units.get 2).assembler = .ok m) ∧
    idle.isAssembling = false ∧ producing.isAssembling = true ∧ producing.progress < 1 ∧
    complete.isAssembling = true ∧ 1 ≤ complete.progress :=
  ⟨fun _ => ⟨rfl, ⟨rfl, rfl⟩, rfl, rfl⟩, rfl, rfl, by decide, rfl, by decide⟩

/-- An idle Assembler without an interface, and with each outcome of a Start. -/
theorem witness_AssembleStartStartsAnIdleAssembler :
    ((ctxOf unit1 { asm2 idle with memIf := .ok none }).units.get 2).memIf = .ok none ∧
    ((ctxOf unit1 (asm2 idle)).units.get 2).memIf = .ok (some mi1) ∧
    ((ctxOf unit1 (asm2 idle)).units.get 2).start = .ok (.started (.hull 3)) ∧
    ((ctxOf unit1 { asm2 idle with start := .ok (.readRejected 4) }).units.get 2).start = .ok (.readRejected 4) ∧
    ((ctxOf unit1 { asm2 idle with start := .ok (.writeRejected 5) }).units.get 2).start = .ok (.writeRejected 5) :=
  ⟨rfl, rfl, rfl, rfl, rfl⟩

/-- Sizes and buffers at the boundaries of R331. -/
theorem witness_ConstructionChecksAndInitialises :
    ((0 : Int) < 1 ∨ 65536 < (0 : Int)) ∧ ((65537 : Int) < 1 ∨ 65536 < (65537 : Int)) ∧
    (([0x10] : List Byte).length : Int) ≠ 2 ∧ (([0x10] : List Byte).length : Int) = 1 ∧ (1 : Int) ≤ 65536 := by decide

/-- A tick with the least budget, and one without (`RunEndsByBudgetOrFailure`, `RunOvershootsByAtMost260`). -/
theorem witness_run :
    (0 : Int) < 1 ∧ after (State.reset.run 1) (fun t => t.used) = some 1 ∧
    (0 : Int) ≤ 0 ∧ after (State.reset.run 0) (fun t => t.used) = some 0 ∧
    after ((start [0xFF]).run 1) (fun t => t.halted) = some true := by decide

end Sys2Proof.Tests
end

section
/-! PROOF. Decoding what was encoded (30_encoding.md R60 to R78): reading back the fields of a snapshot, the bytes
of each instruction under any opcode map, and from both the round trip. -/
namespace Sys2Proof

/-! ### The bytes of a snapshot -/

@[simp] theorem insAt_cons_zero (b : Byte) (ins : List Byte) : insAt (b :: ins) 0 = b := rfl

@[simp] theorem insAt_cons_succ (b : Byte) (ins : List Byte) (k : Nat) : insAt (b :: ins) (k + 1) = insAt ins k := rfl

/-- A field is read from the snapshot without its first byte as from the whole. -/
@[simp] theorem wordAt_cons_succ (b : Byte) (ins : List Byte) (k : Nat) :
    wordAt (b :: ins) (k + 1) = wordAt ins k := rfl

/-! The two bytes of a word are read as that word, whatever follows (R63). -/

@[simp] theorem wordAt_le16_append (v : Word) (ins : List Byte) : wordAt (le16 v ++ ins) 0 = v :=
  u16_loByte_hiByte v

@[simp] theorem wordAt_le16 (v : Word) : wordAt (le16 v) 0 = v :=
  u16_loByte_hiByte v

/-- A field behind a word is read past that word's two bytes (F5M, R62). -/
@[simp] theorem wordAt_le16_append_two (v : Word) (ins : List Byte) : wordAt (le16 v ++ ins) 2 = wordAt ins 0 := rfl

/-- The address of an absolute form is read where its layout puts it (R67). -/
theorem absAddr_encAbs (p : AbsAddrAt) (op op' : Byte) (addr : Word) :
    absAddr p (op :: (encAbs p op' addr).tail) = addr := by
  cases p with
  | byte1 => exact wordAt_le16_append addr [0]
  | byte2 => exact wordAt_le16 addr

/-! ### The bytes of an instruction -/

@[simp] theorem length_le16 (v : Word) : (le16 v).length = 2 := rfl

@[simp] theorem length_encAbs (p : AbsAddrAt) (op : Byte) (addr : Word) : (encAbs p op addr).length = 4 := by
  cases p <;> rfl

theorem Format.len_pos (f : Format) : 0 < f.len := by
  cases f <;> decide

/-- No format is longer than the five bytes of F5 (R62). -/
theorem Format.len_le (f : Format) : f.len ≤ 5 := by
  cases f <;> decide

/-- An instruction has as many bytes as its format (R62), whatever its operands. -/
theorem length_encode (p : AbsAddrAt) (i : Instr) : (encode p i).length = i.mnemonic.form.format.len := by
  cases i <;> simp [encode, encWord5, Instr.mnemonic, Mnemonic.form, Form.format, Format.len]

/-- The operand bytes of an instruction rebuild it behind any opcode: its mnemonic's form reads each operand from where
`encode` puts it, which per format is one of the field lemmas above. -/
theorem build_encode (p : AbsAddrAt) (op : Byte) (i : Instr) :
    i.mnemonic.form.build p (op :: (encode p i).tail) = i := by
  cases i <;> simp [encode, encWord5, Instr.mnemonic, Mnemonic.form, Form.build, absAddr_encAbs]

/-- The first byte of `encode` is the opcode of the default map (R75 to R78). -/
theorem opcodeOf_default (p : AbsAddrAt) (i : Instr) :
    OpcodeMap.default.opcodeOf i.mnemonic = (encode p i).head? := by
  cases i with
  | loadAbs | storeAbs | loadAbsByte | storeAbsByte | jmpAbs | callAbs => cases p <;> rfl
  | _ => rfl

/-! ### The round trip -/

/-- The length law gives the opcode of a row the length of its mnemonic's format (R10, R60). -/
theorem lengthOf_of_rowWellFormed {op : Byte} {f : Format} (h : rowWellFormed op.toNat f = true) :
    lengthOf op = f.len := by
  unfold lengthOf
  cases f <;> simp [rowWellFormed, Format.len, opcodeRange] at h ⊢ <;> split_ifs <;> omega

/-- A snapshot in front of other bytes is decoded alone (R60). -/
theorem decode_append_of_decodeIns {m : OpcodeMap} {p : AbsAddrAt} {op : Byte} {tail : List Byte} {i : Instr}
    (hlen : (op :: tail).length = lengthOf op) (h : decodeIns m p (op :: tail) = some i) (rest : List Byte) :
    decode m p (op :: tail ++ rest) = .ok (i, rest) := by
  have hlong : ¬ (tail ++ rest).length + 1 < lengthOf op := by
    simp only [List.length_cons, List.length_append] at hlen ⊢
    omega
  rw [List.cons_append, decode, if_neg hlong, ← List.cons_append, List.take_left' hlen, List.drop_left' hlen, h]

/-- What `decode` answers is decoded from as many bytes as the first one gives (R60). -/
theorem decodeIns_of_decode {m : OpcodeMap} {p : AbsAddrAt} {op : Byte} {tail rest : List Byte} {i : Instr}
    (h : decode m p (op :: tail) = .ok (i, rest)) : decodeIns m p ((op :: tail).take (lengthOf op)) = some i := by
  rw [decode] at h
  split at h
  · contradiction
  · split at h
    · contradiction
    next j hj =>
      cases h
      exact hj

/-- The bytes under a map are its opcode and the operand bytes of `encode`. -/
theorem encodeWith_eq_some {m : OpcodeMap} {p : AbsAddrAt} {i : Instr} {bytes : List Byte} :
    encodeWith m p i = some bytes ↔ ∃ op, m.opcodeOf i.mnemonic = some op ∧ op :: (encode p i).tail = bytes :=
  Option.map_eq_some_iff

/-- The length of the bytes does not depend on the map. -/
theorem length_encodeWith {m : OpcodeMap} {p : AbsAddrAt} {i : Instr} {bytes : List Byte}
    (h : encodeWith m p i = some bytes) : bytes.length = i.mnemonic.form.format.len := by
  obtain ⟨op, -, rfl⟩ := encodeWith_eq_some.1 h
  have hpos := i.mnemonic.form.format.len_pos
  rw [List.length_cons, List.length_tail, length_encode]
  omega

theorem length_le_of_encodeWith {m : OpcodeMap} {p : AbsAddrAt} {i : Instr} {bytes : List Byte}
    (h : encodeWith m p i = some bytes) : bytes.length ≤ 5 :=
  length_encodeWith h ▸ Format.len_le _

/-- The round trip: the map selects the mnemonic by its opcode, the length law cuts off the bytes of its format, and the
operand bytes rebuild the instruction. -/
theorem decode_encodeWith {m : OpcodeMap} {p : AbsAddrAt} {i : Instr} {bytes : List Byte}
    (h : encodeWith m p i = some bytes) (rest : List Byte) : decode m p (bytes ++ rest) = .ok (i, rest) := by
  obtain ⟨op, hop, rfl⟩ := encodeWith_eq_some.1 h
  have hrow := m.mem_of_opcodeOf hop
  have hlen : (op :: (encode p i).tail).length = lengthOf op := by
    rw [length_encodeWith h, lengthOf_of_rowWellFormed (m.rowWellFormed_of_mem hrow)]
  refine decode_append_of_decodeIns hlen ?_ rest
  rw [decodeIns, insAt_cons_zero, (m.mnemonicOf_eq_some op _).2 hrow, Option.map_some, build_encode]

/-- A map has an opcode for a mnemonic exactly when it has a row of it. -/
theorem OpcodeMap.opcodeOf_isSome (m : OpcodeMap) (k : Mnemonic) :
    (m.opcodeOf k).isSome = true ↔ ∃ op, (op, k) ∈ m.rows := by
  simp [OpcodeMap.opcodeOf]

/-- Under the default map the bytes are those of `encode`. -/
theorem encodeWith_default (p : AbsAddrAt) (i : Instr) : encodeWith .default p i = some (encode p i) := by
  have hne : encode p i ≠ [] := List.ne_nil_of_length_pos (length_encode p i ▸ Format.len_pos _)
  rw [encodeWith, opcodeOf_default p, List.head?_eq_some_head hne, Option.map_some, List.cons_head_tail]

/-- Settles O1: the round trip, the rows of the map, and the default map's bytes. -/
theorem decodeOfEncodeIsIdentity : Obligations.DecodeOfEncodeIsIdentity := by
  refine ⟨fun m p i bytes rest h => decode_encodeWith h rest, fun m p i => ?_, encodeWith_default⟩
  rw [encodeWith, Option.isSome_map, m.opcodeOf_isSome]

end Sys2Proof
end

section
/-! PROOF. A step is `exec` of what the bytes at `pc` encode (R61, R80, R81). -/

namespace Sys2Proof.Machine

/-- A step executes the decoded instruction (R81). -/
theorem step_of_decodeAt {s : State} {i : Instr} (h : (s.decodeAt s.pc).instr = some i) :
    step s = exec i s.beginStep := by
  rw [step, State.decodeAt_beginStep, h]

/-- Five bytes are enough to decode from: the fetch takes those of them that the length law asks for (R60, R61). -/
theorem State.decodeAt_instr_of_decode {s : State} {addr : Nat} {i : Instr} {rest : List Byte}
    (h : decode s.params.opcodeMap s.params.absAddrAt (s.fetchBytes addr 5) = .ok (i, rest)) :
    (s.decodeAt addr).instr = some i := by
  have hlen : lengthOf (s.memRead8 addr) ≤ 5 := by
    rcases lengthOf_cases (s.memRead8 addr) with h | h | h | h <;> omega
  have hins := decodeIns_of_decode h
  rwa [← State.fetchBytes_succ, State.fetchBytes_take s hlen] at hins

/-- Settles O6: the fetched bytes are the beginning of the five. -/
theorem stepRunsTheDecodedInstruction : Obligations.StepRunsTheDecodedInstruction :=
  fun _ _ _ h => ⟨step_of_decodeAt (State.decodeAt_instr_of_decode h), rfl⟩

/-- Bytes that lie in memory from `addr` on, mod N, are what a fetch of their number gives (R61). -/
theorem State.fetchBytes_eq {s : State} {addr : Nat} {bytes : List Byte}
    (h : ∀ k < bytes.length, s.mem.read ((addr + k) % s.size) = bytes.getD k 0) :
    s.fetchBytes addr bytes.length = bytes := by
  apply List.ext_getElem?
  intro k
  by_cases hk : k < bytes.length
  · rw [State.fetchBytes_getElem? s _ addr k hk, State.memRead8, State.wrap_natCast_add, h k hk,
      List.getD_eq_getElem _ _ hk, List.getElem?_eq_getElem hk]
  · rw [List.getElem?_eq_none (by rw [State.fetchBytes_length]; omega), List.getElem?_eq_none (by omega)]

/-- Settles O7: five bytes fetched at `pc` begin with the encoding, so they decode to the instruction (as in O1), which
the step executes (as in O6). -/
theorem stepRunsTheEncodedInstruction : Obligations.StepRunsTheEncodedInstruction := by
  intro s i bytes henc hmem
  have hfetch : (s.fetchBytes s.pc 5).take bytes.length = bytes := by
    rw [State.fetchBytes_take s (length_le_of_encodeWith henc), State.fetchBytes_eq hmem]
  have hdec := decode_encodeWith henc ((s.fetchBytes s.pc 5).drop bytes.length)
  nth_rewrite 1 [← hfetch] at hdec
  rw [List.take_append_drop] at hdec
  exact step_of_decodeAt (State.decodeAt_instr_of_decode hdec)

end Sys2Proof.Machine
end

section
/-! PROOF. How a step ends: in a success that leaves the parameters, the accumulator and the halt to `State.ok`, or in a
failure raised with nothing changed but the calls recorded (R16, R300, R301), at a positive cost either way (R303,
R346). -/

namespace Sys2Proof.Machine

/-! ### How a step ends -/

/-- `u` has the parameters, the accumulator and the halt of `s`. -/
structure SameRun (s u : State) : Prop where
  params : u.params = s.params
  used : u.used = s.used
  halted : u.halted = s.halted

/-- `r` is how something executed from `s` may end. -/
inductive EndsFrom (s : State) : Result → Prop
  | ok {u : State} {c : Nat} (hrun : SameRun s u) (hc : 0 < c) : EndsFrom s (u.ok c)
  | fail (calls : List ExtCall) (e : ErrorCode) {c : Nat} (hc : 0 < c) :
    EndsFrom s (({ s with calls := calls } : State).fail e c)

/-! ### Building an end -/

/-- Recording calls before does not change how it ends. -/
theorem EndsFrom.of_calls {s : State} {calls : List ExtCall} {r : Result}
    (h : EndsFrom { s with calls := calls } r) : EndsFrom s r := by
  cases h with
  | ok hrun hc => exact .ok ⟨hrun.params, hrun.used, hrun.halted⟩ hc
  | fail calls' e hc => exact .fail calls' e hc

theorem EndsFrom.of_call {s : State} {k : ExtCall} {r : Result} (h : EndsFrom (s.call k) r) : EndsFrom s r :=
  h.of_calls

theorem State.fail_endsFrom (s : State) (e : ErrorCode) {c : Nat} (hc : 0 < c) : EndsFrom s (s.fail e c) :=
  .fail s.calls e hc

theorem State.call_fail_endsFrom (s : State) (k : ExtCall) (e : ErrorCode) {c : Nat} (hc : 0 < c) :
    EndsFrom s ((s.call k).fail e c) :=
  .fail _ e hc

theorem State.failCost_pos (s : State) : 0 < s.failCost := by simp

theorem State.unitFailCost_pos (s : State) : 0 < s.unitFailCost := by
  rw [State.unitFailCost_eq]
  split_ifs <;> decide

theorem SameRun.memWriteBytes (s : State) (a : Int) (bs : List Byte) : SameRun s (s.memWriteBytes a bs) := by
  obtain ⟨m, h, hm, -⟩ := State.memWriteBytes_spec bs s a
  rw [hm]
  exact ⟨rfl, rfl, rfl⟩

theorem SameRun.memCopy (s : State) (src dst : Int) (n : Nat) : SameRun s (s.memCopy src dst n) := by
  obtain ⟨m, h, hm, -⟩ := State.memCopy_spec n s src dst
  rw [hm]
  exact ⟨rfl, rfl, rfl⟩

/-- The end of most meanings: past the instruction's bytes, and done. That the updates before keep `SameRun` is what the
lemmas of Laws/State.lean say of each of them. -/
theorem EndsFrom.advance_ok {s u : State} {n c : Nat} (h : SameRun s u := by constructor <;> simp)
    (hc : 0 < c := by decide) : EndsFrom s ((u.advance n).ok c) :=
  .ok ⟨h.params, h.used, h.halted⟩ hc

/-! ### The shared operations and the meanings -/

theorem State.moveReg_endsFrom (s : State) (dst src : Reg) : EndsFrom s (s.moveReg dst src) :=
  .advance_ok

theorem State.moveImm_endsFrom (s : State) (dst : Reg) (imm : Word) (len : Nat) {c : Nat} (hc : 0 < c) :
    EndsFrom s (s.moveImm dst imm len c) :=
  .advance_ok (hc := hc)

theorem State.aluWrite_endsFrom (s : State) (dst : Reg) (r : AluOut) (len : Nat) {c : Nat} (hc : 0 < c) :
    EndsFrom s (s.aluWrite dst r len c) :=
  .advance_ok (hc := hc)

theorem State.aluFlags_endsFrom (s : State) (r : AluOut) (len : Nat) {c : Nat} (hc : 0 < c) :
    EndsFrom s (s.aluFlags r len c) :=
  .advance_ok (hc := hc)

theorem execDivAB_endsFrom (s : State) : EndsFrom s (execDivAB s) := by
  rw [execDivAB]
  split
  · exact s.fail_endsFrom _ s.failCost_pos
  · exact .advance_ok

theorem State.jumpTo_endsFrom (s : State) (target : Nat) : EndsFrom s (s.jumpTo target) :=
  .ok (by constructor <;> simp) (by decide)

theorem State.jumpIf_endsFrom (s : State) (cond : Bool) (off : Word) : EndsFrom s (s.jumpIf cond off) := by
  rw [State.jumpIf]
  split
  · exact s.jumpTo_endsFrom _
  · exact .advance_ok

theorem State.callTo_endsFrom (s : State) (target len : Nat) : EndsFrom s (s.callTo target len) :=
  .ok (by constructor <;> simp) (by decide)

theorem State.loadWord_endsFrom (s : State) (ea len : Nat) : EndsFrom s (s.loadWord ea len) :=
  .advance_ok

theorem State.loadByte_endsFrom (s : State) (ea len : Nat) : EndsFrom s (s.loadByte ea len) :=
  .advance_ok

theorem State.storeWord_endsFrom (s : State) (ea len : Nat) : EndsFrom s (s.storeWord ea len) :=
  .advance_ok

theorem State.storeByte_endsFrom (s : State) (ea len : Nat) : EndsFrom s (s.storeByte ea len) :=
  .advance_ok

theorem State.pushReg_endsFrom (s : State) (r : Reg) : EndsFrom s (s.pushReg r) :=
  .advance_ok

theorem State.popReg_endsFrom (s : State) (r : Reg) : EndsFrom s (s.popReg r) :=
  .advance_ok

theorem State.answerA_endsFrom (s : State) (v : Word) : EndsFrom s (s.answerA v) :=
  .advance_ok

/-- A resolved target ends as the instruction goes on with it (R250, R274). -/
theorem State.resolve_endsFrom (s : State) (sel : Byte) (accept : UnitType → Bool) {cost : Nat} (hc : 0 < cost)
    {k : State → UnitContext → UnitId → Result} (hk : ∀ s' ctx u, EndsFrom s' (k s' ctx u)) :
    EndsFrom s (s.resolve sel accept cost k) := by
  obtain ⟨e, calls, h, -⟩ | ⟨ctx, u, calls, -, -, -, h⟩ := s.resolve_cases sel accept cost k
  · exact h ▸ .fail calls e hc
  · exact h ▸ (hk _ ctx u).of_calls

theorem State.openMemIf_endsFrom (s : State) (sel : Byte) (ctx : UnitContext) (u : UnitId) {cost : Nat} (hc : 0 < cost)
    {k : State → MemInterface → Result} (hk : ∀ s' mi, EndsFrom s' (k s' mi)) :
    EndsFrom s (s.openMemIf sel ctx u cost k) := by
  obtain ⟨e, calls, h, -⟩ | ⟨mi, calls, -, h⟩ := s.openMemIf_cases sel ctx u cost k
  · exact h ▸ .fail calls e hc
  · exact h ▸ (hk _ mi).of_calls

theorem State.unitRead_endsFrom (s : State) (sel : Byte) (ua : Word) : EndsFrom s (s.unitRead sel ua) := by
  refine s.resolve_endsFrom sel _ s.unitFailCost_pos fun s ctx u => ?_
  refine s.openMemIf_endsFrom sel ctx u s.unitFailCost_pos fun s mi => ?_
  split
  · exact s.call_fail_endsFrom _ _ s.unitFailCost_pos
  · exact s.call_fail_endsFrom _ _ s.unitFailCost_pos
  · exact .advance_ok

theorem State.unitWrite_endsFrom (s : State) (sel : Byte) (ua : Word) : EndsFrom s (s.unitWrite sel ua) := by
  refine s.resolve_endsFrom sel _ s.unitFailCost_pos fun s ctx u => ?_
  refine s.openMemIf_endsFrom sel ctx u s.unitFailCost_pos fun s mi => ?_
  split
  · exact s.call_fail_endsFrom _ _ s.unitFailCost_pos
  · exact s.call_fail_endsFrom _ _ s.unitFailCost_pos
  · exact .advance_ok

theorem execScan_endsFrom (dst : Word) (s : State) : EndsFrom s (execScan dst s) := by
  rw [execScan]
  split
  · exact s.fail_endsFrom _ s.failCost_pos
  · split
    · exact s.call_fail_endsFrom _ _ s.failCost_pos
    · exact .of_call (.advance_ok (.memWriteBytes _ _ _))

theorem execScanm_endsFrom (src dst : Word) (s : State) : EndsFrom s (execScanm src dst s) :=
  .advance_ok (h := .memCopy s _ _ _) (hc := Nat.add_pos_left (by decide) _)

theorem execEnergy_endsFrom (sub : Byte) (s : State) : EndsFrom s (execEnergy sub s) := by
  rw [execEnergy]
  split
  · exact s.fail_endsFrom _ s.failCost_pos
  · split
    · exact s.call_fail_endsFrom _ _ s.failCost_pos
    · split
      · exact .of_call (State.answerA_endsFrom _ _)
      · exact s.call_fail_endsFrom _ _ s.failCost_pos

theorem State.assembleStart_endsFrom (s : State) (sel : Byte) (ctx : UnitContext) (u : UnitId) :
    EndsFrom s (s.assembleStart sel ctx u) := by
  rw [State.assembleStart]
  split
  · exact s.call_fail_endsFrom _ _ s.failCost_pos
  · split
    · exact .of_call (State.answerA_endsFrom _ _)
    · refine .of_call (State.openMemIf_endsFrom _ sel ctx u s.failCost_pos fun s _ => ?_)
      split
      · exact s.fail_endsFrom _ s.failCost_pos
      · exact s.fail_endsFrom _ s.failCost_pos
      · exact s.fail_endsFrom _ s.failCost_pos
      · exact .advance_ok

theorem State.assembleStop_endsFrom (s : State) (ctx : UnitContext) (u : UnitId) :
    EndsFrom s (s.assembleStop ctx u) := by
  rw [State.assembleStop]
  split
  · exact s.call_fail_endsFrom _ _ s.failCost_pos
  · exact .advance_ok

theorem State.assembleQuery_endsFrom (s : State) (ctx : UnitContext) (u : UnitId) :
    EndsFrom s (s.assembleQuery ctx u) := by
  rw [State.assembleQuery]
  split
  · exact s.call_fail_endsFrom _ _ s.failCost_pos
  · exact .of_call (State.answerA_endsFrom _ _)

theorem execAssemble_endsFrom (sel cmd : Byte) (s : State) : EndsFrom s (execAssemble sel cmd s) := by
  refine s.resolve_endsFrom sel _ s.failCost_pos fun s ctx u => ?_
  split
  · exact s.assembleStart_endsFrom sel ctx u
  · exact s.assembleStop_endsFrom ctx u
  · exact s.assembleQuery_endsFrom ctx u
  · exact s.fail_endsFrom _ s.failCost_pos

/-- Every instruction ends so, each by the operation its meaning is made of. -/
theorem exec_endsFrom (i : Instr) (s : State) : EndsFrom s (exec i s) := by
  cases i with
  | nop | movSpA => exact .advance_ok
  | movAB | movAC | movAD | movBA | movBC | movBD | movCA | movCB | movCD | movDA | movDB | movDC =>
    exact s.moveReg_endsFrom _ _
  | xchgAB => exact .advance_ok
  | movASp => exact .advance_ok
  | movAImm | movBImm | movCImm | movDImm | loadImm | loadImmB => exact s.moveImm_endsFrom _ _ _ (by decide)
  | incA | incB | incC | incD | decA | decB | decC | decD | addAB | subAB | andAB | orAB | xorAB | notA | addAImm
  | subAImm | andAImm | orAImm | xorAImm | mulAB | shl | shr => exact s.aluWrite_endsFrom _ _ _ (by decide)
  | cmpAB | cmpAImm => exact s.aluFlags_endsFrom _ _ (by decide)
  | divAB => exact execDivAB_endsFrom s
  | pushA | pushB | pushC | pushD => exact s.pushReg_endsFrom _
  | popA | popB | popC | popD => exact s.popReg_endsFrom _
  | loadA | loadInd | loadReg | loadAbs => exact s.loadWord_endsFrom _ _
  | loadAByte | loadIndByte | loadRegByte | loadAbsByte => exact s.loadByte_endsFrom _ _
  | storeA | storeInd | storeReg | storeAbs => exact s.storeWord_endsFrom _ _
  | storeAByte | storeIndByte | storeRegByte | storeAbsByte => exact s.storeByte_endsFrom _ _
  | jmp | jmpAbs | ret => exact s.jumpTo_endsFrom _
  | jz | jnz | jc | jnc | jg | jge | jl | jle | jul | juge => exact s.jumpIf_endsFrom _ _
  | call | callAbs => exact s.callTo_endsFrom _ _
  | unitMemRead sel ua => exact s.unitRead_endsFrom sel ua
  | unitMemWrite sel ua => exact s.unitWrite_endsFrom sel ua
  | unitMemWriteDyn sel => exact s.unitWrite_endsFrom sel s.b
  | scan dst => exact execScan_endsFrom dst s
  | scanm src dst => exact execScanm_endsFrom src dst s
  | energy sub => exact execEnergy_endsFrom sub s
  | assemble sel cmd => exact execAssemble_endsFrom sel cmd s

/-- Every step ends so, one with an undefined opcode in a failure (R72). -/
theorem step_endsFrom (s : State) : EndsFrom s.beginStep (step s) := by
  rw [step]
  split
  · exact State.fail_endsFrom _ _ (State.failCost_pos _)
  · exact exec_endsFrom _ _

/-! ### The message of an end -/

/-- A success leaves no message (log 5). -/
theorem EndsFrom.message_of_success {s t : State} {r : Result} (h : EndsFrom s r) (ht : r = .next t) {c : Nat}
    (hres : t.result = some (.success c)) : t.message = none := by
  cases h with
  | ok =>
    obtain ⟨-, -, -, hmsg⟩ := State.ok_next ht
    exact hmsg
  | fail => cases ht; cases hres

/-- A failure leaves its message in the `HEX_CASE` of the state it began from (R305). -/
theorem EndsFrom.message_of_failure {s t : State} {r : Result} (h : EndsFrom s r) (ht : r = .next t) {e : ErrorCode}
    {c : Nat} (hres : t.result = some (.failure e c)) : t.message = e.message s.params.hexCase := by
  cases h with
  | ok => cases ht; cases hres
  | fail => cases ht; cases hres; rfl

/-- A digit is the one of the sixteen characters in its place (R305). -/
theorem hexDigit_eq_getD (h : HexCase) {n : Nat} (hn : n < 16) :
    hexDigit h n = (if h = .upper then "0123456789ABCDEF" else "0123456789abcdef").toList.getD n '?' := by
  revert n
  cases h <;> decide

/-- `hex2` gives the two digits of the byte, the high one first (R251). -/
theorem hex2_eq_ofList_getD {h : HexCase} {digits : List Char}
    (hd : digits = (if h = .upper then "0123456789ABCDEF" else "0123456789abcdef").toList) (b : Byte) :
    hex2 h b = String.ofList [digits.getD (b.toNat / 16) '?', digits.getD (b.toNat % 16) '?'] := by
  have hb := b.isLt
  rw [hex2, hexDigit_eq_getD h (by omega), hexDigit_eq_getD h (by omega), hd]

/-- Settles O60: every step ends in a success or a failure of its own, whose message the model gives; nothing stands
before or behind the fixed text. -/
theorem failedStepReportsItsMessage : Obligations.FailedStepReportsItsMessage := by
  refine ⟨fun _ => rfl, fun s t hstep => ⟨fun c hres => (step_endsFrom s).message_of_success hstep hres, ?_⟩⟩
  intro e c hres
  have hmsg : t.message = e.message s.params.hexCase := (step_endsFrom s).message_of_failure hstep hres
  refine ⟨hmsg, ?_, ?_⟩
  · rintro rfl
    have hfixed : t.message = some "Division by zero" := hmsg
    exact ⟨"", "", by simpa using hfixed⟩
  · rintro sel digits rfl hdigits
    refine ⟨"", "", ?_⟩
    rw [hmsg, ErrorCode.message, hex2_eq_ofList_getD hdigits, String.empty_append, String.append_empty]

end Sys2Proof.Machine
end

section
/-! PROOF. What an instruction may write (R22, R26, R29, R46), and that whatever it writes to memory leaves memory in
canonical form (log 16): one frame for all instructions, from which the rules about single fields are read off. -/

namespace Sys2Proof.Machine

/-! ### The frame -/

/-- What may be written: each general register, the flags, `sp`, memory. -/
structure Footprint where
  reg : Reg → Bool
  flags : Bool
  sp : Bool
  mem : Bool

/-- What the rules allow an instruction to write. -/
def footprint (i : Instr) : Footprint :=
  { reg := mayWriteReg i, flags := decide (i.category = .arithmetic), sp := mayWriteSp i, mem := mayWriteMem i }

/-- From `s` to `u` nothing outside `W` was written, and memory is canonical if it was. -/
structure WritesOnly (W : Footprint) (s u : State) : Prop where
  reg : ∀ r, W.reg r = false → u.reg r = s.reg r
  flags : W.flags = false → flagsSame s u
  sp : W.sp = false → u.sp = s.sp
  mem : W.mem = false → u.mem = s.mem
  wf : s.mem.wf = true → u.mem.wf = true

/-- A step that ends in `r` has written nothing outside `W` since `s`. -/
def EndsWithin (W : Footprint) (s : State) (r : Result) : Prop :=
  ∀ t, r = .next t → WritesOnly W s t

/-! ### The updates -/

section Updates

variable {W : Footprint} {s u : State}

theorem WritesOnly.refl : WritesOnly W s s :=
  ⟨fun _ _ => rfl, fun _ => ⟨rfl, rfl⟩, fun _ => rfl, fun _ => rfl, id⟩

theorem WritesOnly.setReg (h : WritesOnly W s u) {r : Reg} (hr : W.reg r = true) (v : Word) :
    WritesOnly W s (u.setReg r v) where
  reg q hq := by
    have hqr : q ≠ r := by
      rintro rfl
      simp [hr] at hq
    rw [State.reg_setReg, if_neg hqr, h.reg q hq]
  flags hf := by simpa [flagsSame] using h.flags hf
  sp hsp := by simpa using h.sp hsp
  mem hm := by simpa using h.mem hm
  wf hwf := by simpa using h.wf hwf

theorem WritesOnly.setFlags (h : WritesOnly W s u) (hf : W.flags = true) (z cy : Bool) :
    WritesOnly W s (u.setFlags z cy) :=
  { h with flags := fun hf' => by simp [hf] at hf' }

theorem WritesOnly.setPc (h : WritesOnly W s u) (t : Int) : WritesOnly W s (u.setPc t) :=
  { h with }

theorem WritesOnly.setSp (h : WritesOnly W s u) (hsp : W.sp = true) (t : Int) : WritesOnly W s (u.setSp t) :=
  { h with sp := fun hsp' => by simp [hsp] at hsp' }

theorem WritesOnly.withMem (h : WritesOnly W s u) (hm : W.mem = true) {m : Memory} (hb : m.below u.size = true)
    (hwf : u.mem.wf = true → m.wf = true) : WritesOnly W s (u.withMem m hb) :=
  { h with mem := fun hm' => by simp [hm] at hm', wf := fun hs => hwf (h.wf hs) }

theorem WritesOnly.memWrite8 (h : WritesOnly W s u) (hm : W.mem = true) (addr : Int) (b : Byte) :
    WritesOnly W s (u.memWrite8 addr b) :=
  h.withMem hm _ fun hu => State.memWrite8_wf hu addr b

theorem WritesOnly.memWrite16 (h : WritesOnly W s u) (hm : W.mem = true) (addr : Int) (v : Word) :
    WritesOnly W s (u.memWrite16 addr v) :=
  (h.memWrite8 hm _ _).memWrite8 hm _ _

theorem WritesOnly.memWriteBytes (h : WritesOnly W s u) (hm : W.mem = true) (addr : Int) (bs : List Byte) :
    WritesOnly W s (u.memWriteBytes addr bs) := by
  obtain ⟨m, hb, heq, hwf⟩ := State.memWriteBytes_spec bs u addr
  exact heq ▸ h.withMem hm hb hwf

theorem WritesOnly.memCopy (h : WritesOnly W s u) (hm : W.mem = true) (src dst : Int) (n : Nat) :
    WritesOnly W s (u.memCopy src dst n) := by
  obtain ⟨m, hb, heq, hwf⟩ := State.memCopy_spec n u src dst
  exact heq ▸ h.withMem hm hb hwf

theorem WritesOnly.push16 (h : WritesOnly W s u) (hsp : W.sp = true) (hm : W.mem = true) (v : Word) :
    WritesOnly W s (u.push16 v) :=
  (h.setSp hsp _).memWrite16 hm _ v

/-- The calls recorded are no part of the frame. -/
theorem WritesOnly.calls (h : WritesOnly W s u) (calls : List ExtCall) :
    WritesOnly W s { u with calls := calls } :=
  { h with }

theorem WritesOnly.call (h : WritesOnly W s u) (k : ExtCall) : WritesOnly W s (u.call k) :=
  h.calls _

theorem WritesOnly.setAssembler (h : WritesOnly W s u) (ctx : UnitContext) (v : UnitId) (m : Assembler) :
    WritesOnly W s (u.setAssembler ctx v m) :=
  { h with }

theorem WritesOnly.ok (h : WritesOnly W s u) (c : Nat) : EndsWithin W s (u.ok c) := by
  rintro t ht
  cases ht
  exact { h with }

theorem WritesOnly.fail (h : WritesOnly W s u) (e : ErrorCode) (c : Nat) : EndsWithin W s (u.fail e c) := by
  rintro t ht
  cases ht
  exact { h with }

/-! ### The shared operations and the meanings -/

theorem WritesOnly.advance_ok (h : WritesOnly W s u) (n c : Nat) : EndsWithin W s ((u.advance n).ok c) :=
  (h.setPc _).ok c

/-- The end of the copies, the loads and the other meanings that write one register. -/
theorem WritesOnly.setReg_ok (h : WritesOnly W s u) {r : Reg} (hr : W.reg r = true) (v : Word) (n c : Nat) :
    EndsWithin W s (((u.setReg r v).advance n).ok c) :=
  (h.setReg hr v).advance_ok n c

theorem WritesOnly.aluWrite (h : WritesOnly W s u) {dst : Reg} (hr : W.reg dst = true) (hf : W.flags = true)
    (r : AluOut) (len c : Nat) : EndsWithin W s (u.aluWrite dst r len c) :=
  ((h.setReg hr _).setFlags hf _ _).advance_ok len c

theorem WritesOnly.aluFlags (h : WritesOnly W s u) (hf : W.flags = true) (r : AluOut) (len c : Nat) :
    EndsWithin W s (u.aluFlags r len c) :=
  (h.setFlags hf _ _).advance_ok len c

theorem WritesOnly.execDivAB (h : WritesOnly W s u) (ha : W.reg .a = true) (hb : W.reg .b = true)
    (hf : W.flags = true) : EndsWithin W s (execDivAB u) := by
  rw [Machine.execDivAB]
  split
  · exact h.fail _ _
  · exact (h.setReg hb _).aluWrite ha hf _ _ _

theorem WritesOnly.jumpTo (h : WritesOnly W s u) (target : Nat) : EndsWithin W s (u.jumpTo target) :=
  (h.setPc _).ok 3

theorem WritesOnly.jumpIf (h : WritesOnly W s u) (cond : Bool) (off : Word) : EndsWithin W s (u.jumpIf cond off) := by
  rw [State.jumpIf]
  split
  · exact h.jumpTo _
  · exact h.advance_ok _ _

theorem WritesOnly.callTo (h : WritesOnly W s u) (hsp : W.sp = true) (hm : W.mem = true) (target len : Nat) :
    EndsWithin W s (u.callTo target len) :=
  (h.push16 hsp hm _).jumpTo target

/-- A target resolved writes what the instruction writes that goes on with it (R250, R274). -/
theorem WritesOnly.resolve (h : WritesOnly W s u) (sel : Byte) (accept : UnitType → Bool) (cost : Nat)
    {k : State → UnitContext → UnitId → Result} (hk : ∀ u' ctx v, WritesOnly W s u' → EndsWithin W s (k u' ctx v)) :
    EndsWithin W s (u.resolve sel accept cost k) := by
  obtain ⟨e, calls, heq, -⟩ | ⟨ctx, v, calls, -, -, -, heq⟩ := u.resolve_cases sel accept cost k
  · exact heq ▸ (h.calls calls).fail e cost
  · exact heq ▸ hk _ ctx v (h.calls calls)

theorem WritesOnly.openMemIf (h : WritesOnly W s u) (sel : Byte) (ctx : UnitContext) (v : UnitId) (cost : Nat)
    {k : State → MemInterface → Result} (hk : ∀ u' mi, WritesOnly W s u' → EndsWithin W s (k u' mi)) :
    EndsWithin W s (u.openMemIf sel ctx v cost k) := by
  obtain ⟨e, calls, heq, -⟩ | ⟨mi, calls, -, heq⟩ := u.openMemIf_cases sel ctx v cost k
  · exact heq ▸ (h.calls calls).fail e cost
  · exact heq ▸ hk _ mi (h.calls calls)

theorem WritesOnly.unitRead (h : WritesOnly W s u) (ha : W.reg .a = true) (sel : Byte) (ua : Word) :
    EndsWithin W s (u.unitRead sel ua) := by
  refine h.resolve sel _ _ fun u ctx v h => h.openMemIf sel ctx v _ fun u mi h => ?_
  split
  · exact (h.call _).fail _ _
  · exact (h.call _).fail _ _
  · exact (h.call _).setReg_ok ha _ _ _

theorem WritesOnly.unitWrite (h : WritesOnly W s u) (sel : Byte) (ua : Word) :
    EndsWithin W s (u.unitWrite sel ua) := by
  refine h.resolve sel _ _ fun u ctx v h => h.openMemIf sel ctx v _ fun u mi h => ?_
  split
  · exact (h.call _).fail _ _
  · exact (h.call _).fail _ _
  · exact (h.call _).advance_ok _ _

theorem WritesOnly.execScan (h : WritesOnly W s u) (hm : W.mem = true) (dst : Word) :
    EndsWithin W s (execScan dst u) := by
  rw [Machine.execScan]
  split
  · exact h.fail _ _
  · split
    · exact (h.call _).fail _ _
    · exact ((h.call _).memWriteBytes hm _ _).advance_ok _ _

theorem WritesOnly.execEnergy (h : WritesOnly W s u) (ha : W.reg .a = true) (sub : Byte) :
    EndsWithin W s (execEnergy sub u) := by
  rw [Machine.execEnergy]
  split
  · exact h.fail _ _
  · split
    · exact (h.call _).fail _ _
    · split
      · exact (h.call _).setReg_ok ha _ _ _
      · exact (h.call _).fail _ _

theorem WritesOnly.assembleStart (h : WritesOnly W s u) (ha : W.reg .a = true) (sel : Byte) (ctx : UnitContext)
    (v : UnitId) : EndsWithin W s (u.assembleStart sel ctx v) := by
  rw [State.assembleStart]
  split
  · exact (h.call _).fail _ _
  · split
    · exact (h.call _).setReg_ok ha _ _ _
    · refine (h.call _).openMemIf sel ctx v _ fun u _ h => ?_
      split
      · exact h.fail _ _
      · exact h.fail _ _
      · exact h.fail _ _
      · exact (h.setAssembler ctx v _).setReg_ok ha _ _ _

theorem WritesOnly.assembleStop (h : WritesOnly W s u) (ha : W.reg .a = true) (ctx : UnitContext) (v : UnitId) :
    EndsWithin W s (u.assembleStop ctx v) := by
  rw [State.assembleStop]
  split
  · exact (h.call _).fail _ _
  · exact ((h.call _).setAssembler ctx v _).setReg_ok ha _ _ _

theorem WritesOnly.assembleQuery (h : WritesOnly W s u) (ha : W.reg .a = true) (ctx : UnitContext) (v : UnitId) :
    EndsWithin W s (u.assembleQuery ctx v) := by
  rw [State.assembleQuery]
  split
  · exact (h.call _).fail _ _
  · exact (h.call _).setReg_ok ha _ _ _

theorem WritesOnly.execAssemble (h : WritesOnly W s u) (ha : W.reg .a = true) (sel cmd : Byte) :
    EndsWithin W s (execAssemble sel cmd u) := by
  refine h.resolve sel _ _ fun u ctx v h => ?_
  split
  · exact h.assembleStart ha sel ctx v
  · exact h.assembleStop ha ctx v
  · exact h.assembleQuery ha ctx v
  · exact h.fail _ _

end Updates

/-- Every instruction writes within its footprint: each `rfl` reads a permission off the lists of the rules. -/
theorem exec_endsWithin (i : Instr) (s : State) : EndsWithin (footprint i) s (exec i s) := by
  have h : WritesOnly (footprint i) s s := .refl
  cases i with
  | nop => exact h.advance_ok _ _
  | movAB | movAC | movAD | movBA | movBC | movBD | movCA | movCB | movCD | movDA | movDB | movDC | movASp | movAImm
  | movBImm | movCImm | movDImm | loadImm | loadImmB | loadA | loadInd | loadReg | loadAbs | loadAByte | loadIndByte
  | loadRegByte | loadAbsByte => exact h.setReg_ok rfl _ _ _
  | xchgAB => exact (h.setReg rfl _).setReg_ok rfl _ _ _
  | movSpA => exact (h.setSp rfl _).advance_ok _ _
  | incA | incB | incC | incD | decA | decB | decC | decD | addAB | subAB | andAB | orAB | xorAB | notA | addAImm
  | subAImm | andAImm | orAImm | xorAImm | mulAB | shl | shr => exact h.aluWrite rfl rfl _ _ _
  | cmpAB | cmpAImm => exact h.aluFlags rfl _ _ _
  | divAB => exact h.execDivAB rfl rfl rfl
  | pushA | pushB | pushC | pushD => exact (h.push16 rfl rfl _).advance_ok _ _
  | popA | popB | popC | popD => exact (h.setSp rfl _).setReg_ok rfl _ _ _
  | storeA | storeInd | storeReg | storeAbs => exact (h.memWrite16 rfl _ _).advance_ok _ _
  | storeAByte | storeIndByte | storeRegByte | storeAbsByte => exact (h.memWrite8 rfl _ _).advance_ok _ _
  | jmp | jmpAbs | ret => exact h.jumpTo _
  | jz | jnz | jc | jnc | jg | jge | jl | jle | jul | juge => exact h.jumpIf _ _
  | call | callAbs => exact h.callTo rfl rfl _ _
  | unitMemRead sel ua => exact h.unitRead rfl sel ua
  | unitMemWrite sel ua => exact h.unitWrite sel ua
  | unitMemWriteDyn sel => exact h.unitWrite sel s.b
  | scan dst => exact h.execScan rfl dst
  | scanm src dst => exact (h.memCopy rfl _ _ _).advance_ok _ _
  | energy sub => exact h.execEnergy rfl sub
  | assemble sel cmd => exact h.execAssemble rfl sel cmd

/-! ### The rules -/

/-- A step keeps memory canonical, one with an undefined opcode too, which fails (R72). -/
theorem step_mem_wf {s t : State} (h : s.mem.wf = true) (ht : step s = .next t) : t.mem.wf = true := by
  rw [step] at ht
  split at ht
  · obtain ⟨⟨hvm, -⟩, -⟩ := State.fail_next ht
    rw [hvm]
    exact h
  next i _ => exact (exec_endsWithin i s.beginStep t ht).wf h

/-- The ranges of R33 are fields of every `State` (log 14): its memory's canonical form is all that `State.Wf` adds. -/
theorem State.wf_of_mem_wf {s : State} (h : s.mem.wf = true) : s.Wf :=
  ⟨s.pcInRange, s.spInRange, h, s.memInRange⟩

/-- Settles O13: the memory after reset lists no byte. -/
theorem resetSatisfiesInvariant : Obligations.ResetSatisfiesInvariant :=
  ⟨State.wf_of_mem_wf rfl, fun _ => State.wf_of_mem_wf rfl⟩

/-- Settles O14: the canonical form is the one part of the invariant that a step could break, and the frame keeps it. -/
theorem stepKeepsInvariant : Obligations.StepKeepsInvariant :=
  fun _ _ ⟨_, _, hmem, _⟩ hstep => State.wf_of_mem_wf (step_mem_wf hmem hstep)

/-- Settles O17: a register outside the footprint is as before. -/
theorem registersAreWrittenByTheirWriters : Obligations.RegistersAreWrittenByTheirWriters := by
  intro i s t r hexec hne
  by_contra hno
  exact hne ((exec_endsWithin i s t hexec).reg r (Bool.eq_false_iff.2 hno))

end Sys2Proof.Machine
end

section
/-! PROOF. What a step's end says of the parameters, the accumulator and the halt (R31, R32, R340, R342). -/

namespace Sys2Proof.Machine

/-- No end changes the parameters. -/
theorem EndsFrom.params {s t : State} {r : Result} (h : EndsFrom s r) (ht : r = .next t) : t.params = s.params := by
  cases h with
  | ok hrun =>
    obtain ⟨-, ⟨hparams, -⟩, -⟩ := State.ok_next ht
    exact hparams.trans hrun.params
  | fail =>
    obtain ⟨⟨-, hparams, -⟩, -⟩ := State.fail_next ht
    exact hparams

/-- The result says what becomes of the accumulator and the halt: two ends with the same result make the same of the
same two. -/
theorem EndsFrom.run_congr {s s' t t' : State} {r r' : Result} (h : EndsFrom s r) (h' : EndsFrom s' r')
    (ht : r = .next t) (ht' : r' = .next t') (hres : t'.result = t.result) (hused : s'.used = s.used)
    (hhalted : s'.halted = s.halted) : t'.used = t.used ∧ t'.halted = t.halted := by
  cases h with
  | ok hrun =>
    cases ht
    cases h' with
    | ok hrun' =>
      cases ht'
      cases hres
      simp [hrun.used, hrun.halted, hrun'.used, hrun'.halted, hused, hhalted]
    | fail => cases ht'; cases hres
  | fail =>
    cases ht
    cases h' with
    | ok => cases ht'; cases hres
    | fail =>
      cases ht'
      cases hres
      simp [hused]

/-- Settles O15: every step ends in a success or a failure of its own, and neither touches the parameters. -/
theorem stepKeepsParameters : Obligations.StepKeepsParameters := by
  intro s t hstep
  have hparams : t.params = s.params := (step_endsFrom s).params hstep
  exact ⟨hparams, State.size_congr hparams⟩

end Sys2Proof.Machine
end

section
/-! PROOF. Noninterference (R29, R35): two states that differ in the run loop's state, in the outputs of earlier steps
and, where the instruction does not read them, in the flags are executed alike. -/

namespace Sys2Proof.Machine

/-! ### Alike states and alike ends -/

/-- The two states agree on everything an instruction can read, the flags only under `f`. -/
structure Alike (f : Prop) (s s' : State) : Prop where
  reg : ∀ r, s'.reg r = s.reg r
  pc : s'.pc = s.pc
  sp : s'.sp = s.sp
  mem : s'.mem = s.mem
  params : s'.params = s.params
  ctx : s'.ctx = s.ctx
  inputs : s'.inputs = s.inputs
  calls : s'.calls = s.calls
  flags : f → flagsSame s s'

/-- Two ends in the same way from alike states: after a success the flags agree under `g`, after a failure under `f`. -/
inductive AlikeEnds (f g : Prop) : Result → Result → Prop
  | ok {u u' : State} (h : Alike g u u') (c : Nat) : AlikeEnds f g (u.ok c) (u'.ok c)
  | fail {u u' : State} (h : Alike f u u') (e : ErrorCode) (c : Nat) : AlikeEnds f g (u.fail e c) (u'.fail e c)

section Alike

variable {f g : Prop} {s s' : State}

theorem Alike.mono (h : Alike f s s') (hg : g → f) : Alike g s s' :=
  { h with flags := fun hg' => h.flags (hg hg') }

theorem AlikeEnds.mono {g' : Prop} {r r' : Result} (h : AlikeEnds f g r r') (hg : g' → g) : AlikeEnds f g' r r' := by
  cases h with
  | ok h c => exact .ok (h.mono hg) c
  | fail h e c => exact .fail h e c

/-! ### What is read of alike states -/

theorem Alike.a (h : Alike f s s') : s'.a = s.a := h.reg .a

theorem Alike.b (h : Alike f s s') : s'.b = s.b := h.reg .b

theorem Alike.c (h : Alike f s s') : s'.c = s.c := h.reg .c

theorem Alike.d (h : Alike f s s') : s'.d = s.d := h.reg .d

theorem Alike.wrap (h : Alike f s s') (x : Int) : s'.wrap x = s.wrap x := State.wrap_congr h.params x

theorem Alike.memRead8 (h : Alike f s s') (x : Int) : s'.memRead8 x = s.memRead8 x :=
  State.memRead8_congr h.mem h.params x

theorem Alike.memRead16 (h : Alike f s s') (x : Int) : s'.memRead16 x = s.memRead16 x := by
  simp only [State.memRead16, h.memRead8]

theorem Alike.popWord (h : Alike f s s') : s'.popWord = s.popWord := by
  rw [State.popWord, h.sp, h.memRead16, State.popWord]

theorem Alike.relTarget (h : Alike f s s') (off : Word) : s'.relTarget off = s.relTarget off := by
  rw [State.relTarget, h.pc, h.wrap, State.relTarget]

theorem Alike.eaIndexed (h : Alike f s s') (off : Word) : s'.eaIndexed off = s.eaIndexed off := by
  simp only [State.eaIndexed, h.params, h.pc, h.b, h.wrap]

theorem Alike.eaReg (h : Alike f s s') (r : Reg) : s'.eaReg r = s.eaReg r := by
  rw [State.eaReg, h.reg, h.wrap, State.eaReg]

theorem Alike.absTarget (h : Alike f s s') (addr : Word) : s'.absTarget addr = s.absTarget addr :=
  h.wrap _

theorem Alike.returnAddress (h : Alike f s s') (len : Nat) : s'.returnAddress len = s.returnAddress len := by
  rw [State.returnAddress, h.pc, h.wrap, State.returnAddress]

theorem Alike.scanmLength (h : Alike f s s') : s'.scanmLength = s.scanmLength := by
  simp only [State.scanmLength, h.c, h.params]

theorem Alike.failCost (h : Alike f s s') : s'.failCost = s.failCost := by
  rw [State.failCost, h.params, State.failCost]

theorem Alike.unitFailCost (h : Alike f s s') : s'.unitFailCost = s.unitFailCost := by
  rw [State.unitFailCost, h.params, State.unitFailCost]

/-! ### The updates -/

theorem Alike.setReg (h : Alike f s s') (r : Reg) {v v' : Word} (hv : v' = v) :
    Alike f (s.setReg r v) (s'.setReg r v') where
  reg q := by rw [State.reg_setReg, State.reg_setReg, h.reg, hv]
  pc := by simpa using h.pc
  sp := by simpa using h.sp
  mem := by simpa using h.mem
  params := by simpa using h.params
  ctx := by simpa using h.ctx
  inputs := by simpa using h.inputs
  calls := by simpa using h.calls
  flags hf := by simpa [flagsSame] using h.flags hf

/-- Flags written agree, whether or not the old ones did. -/
theorem Alike.setFlags (h : Alike f s s') (z cy : Bool) : Alike g (s.setFlags z cy) (s'.setFlags z cy) :=
  { h with flags := fun _ => ⟨rfl, rfl⟩ }

theorem Alike.setPc (h : Alike f s s') {t t' : Int} (ht : t' = t) : Alike f (s.setPc t) (s'.setPc t') :=
  { h with pc := by rw [State.setPc_pc, State.setPc_pc, h.wrap, ht] }

theorem Alike.advance (h : Alike f s s') (n : Nat) : Alike f (s.advance n) (s'.advance n) :=
  h.setPc (by rw [h.pc])

theorem Alike.setSp (h : Alike f s s') {t t' : Int} (ht : t' = t) : Alike f (s.setSp t) (s'.setSp t') :=
  { h with sp := by rw [State.setSp_sp, State.setSp_sp, h.wrap, ht] }

theorem Alike.popSp (h : Alike f s s') : Alike f s.popSp s'.popSp :=
  h.setSp (by rw [h.sp])

theorem Alike.memWrite8 (h : Alike f s s') {x x' : Int} (hx : x' = x) {b b' : Byte} (hb : b' = b) :
    Alike f (s.memWrite8 x b) (s'.memWrite8 x' b') :=
  { h with mem := by rw [State.memWrite8_mem, State.memWrite8_mem, h.mem, h.wrap, hx, hb] }

theorem Alike.memWrite16 (h : Alike f s s') {x x' : Int} (hx : x' = x) {v v' : Word} (hv : v' = v) :
    Alike f (s.memWrite16 x v) (s'.memWrite16 x' v') :=
  (h.memWrite8 hx (by rw [hv])).memWrite8 (by rw [hx]) (by rw [hv])

theorem Alike.memWriteBytes (h : Alike f s s') (x : Int) (bs : List Byte) :
    Alike f (s.memWriteBytes x bs) (s'.memWriteBytes x bs) := by
  induction bs generalizing s s' x with
  | nil => exact h
  | cons b rest ih => exact ih (h.memWrite8 rfl rfl) (x + 1)

theorem Alike.memCopy (h : Alike f s s') (src dst : Int) (n : Nat) :
    Alike f (s.memCopy src dst n) (s'.memCopy src dst n) := by
  induction n generalizing s s' src dst with
  | zero => exact h
  | succ n ih => exact ih (h.memWrite8 rfl (h.memRead8 src)) (src + 1) (dst + 1)

theorem Alike.push16 (h : Alike f s s') {v v' : Word} (hv : v' = v) : Alike f (s.push16 v) (s'.push16 v') := by
  have hsp := h.setSp (t := (s.sp : Int) - 2) (t' := (s'.sp : Int) - 2) (by rw [h.sp])
  exact hsp.memWrite16 (by rw [hsp.sp]) hv

theorem Alike.call (h : Alike f s s') {k k' : ExtCall} (hk : k' = k) : Alike f (s.call k) (s'.call k') :=
  { h with calls := by rw [State.call_calls, State.call_calls, h.calls, hk] }

theorem Alike.setAssembler (h : Alike f s s') (ctx : UnitContext) (u : UnitId) (m : Assembler) :
    Alike f (s.setAssembler ctx u m) (s'.setAssembler ctx u m) :=
  { h with ctx := rfl }

/-! ### The ends of the shared operations and the meanings -/

theorem Alike.fail (h : Alike f s s') (e : ErrorCode) {c c' : Nat} (hc : c' = c) :
    AlikeEnds f g (s.fail e c) (s'.fail e c') := by
  subst hc
  exact .fail h e _

theorem Alike.advance_ok (h : Alike g s s') (n c : Nat) : AlikeEnds f g ((s.advance n).ok c) ((s'.advance n).ok c) :=
  .ok (h.advance n) c

/-- The end of the copies, the loads and the other meanings that write one register. -/
theorem Alike.setReg_ok (h : Alike f s s') (r : Reg) {v v' : Word} (hv : v' = v) (n c : Nat) :
    AlikeEnds f f (((s.setReg r v).advance n).ok c) (((s'.setReg r v').advance n).ok c) :=
  (h.setReg r hv).advance_ok n c

theorem Alike.aluWrite (h : Alike f s s') (dst : Reg) {r r' : AluOut} (hr : r' = r) (len c : Nat) :
    AlikeEnds f g (s.aluWrite dst r len c) (s'.aluWrite dst r' len c) := by
  subst hr
  exact ((h.setReg dst rfl).setFlags _ _).advance_ok len c

theorem Alike.aluFlags (h : Alike f s s') {r r' : AluOut} (hr : r' = r) (len c : Nat) :
    AlikeEnds f g (s.aluFlags r len c) (s'.aluFlags r' len c) := by
  subst hr
  exact (h.setFlags _ _).advance_ok len c

theorem Alike.execDivAB (h : Alike f s s') : AlikeEnds f g (execDivAB s) (execDivAB s') := by
  rw [Machine.execDivAB, Machine.execDivAB, h.a, h.b]
  split
  · exact h.fail _ h.failCost
  · exact (h.setReg .b rfl).aluWrite .a rfl _ _

theorem Alike.storeWord (h : Alike f s s') {ea ea' : Nat} (hea : ea' = ea) (len : Nat) :
    AlikeEnds f f (s.storeWord ea len) (s'.storeWord ea' len) :=
  (h.memWrite16 (by rw [hea]) h.a).advance_ok len _

theorem Alike.storeByte (h : Alike f s s') {ea ea' : Nat} (hea : ea' = ea) (len : Nat) :
    AlikeEnds f f (s.storeByte ea len) (s'.storeByte ea' len) :=
  (h.memWrite8 (by rw [hea]) (by rw [h.a])).advance_ok len _

theorem Alike.jumpTo (h : Alike f s s') {target target' : Nat} (ht : target' = target) :
    AlikeEnds f f (s.jumpTo target) (s'.jumpTo target') :=
  .ok (h.setPc (by rw [ht])) 3

theorem Alike.jumpIf (h : Alike f s s') {cond cond' : Bool} (hc : cond' = cond) (off : Word) :
    AlikeEnds f f (s.jumpIf cond off) (s'.jumpIf cond' off) := by
  rw [State.jumpIf, State.jumpIf, hc]
  split
  · exact h.jumpTo (h.relTarget off)
  · exact h.advance_ok _ _

theorem Alike.callTo (h : Alike f s s') {target target' : Nat} (ht : target' = target) (len : Nat) :
    AlikeEnds f f (s.callTo target len) (s'.callTo target' len) :=
  (h.push16 (h.returnAddress len)).jumpTo ht

/-- A target is resolved alike, since the context is the same (R250, R274). -/
theorem Alike.resolve (h : Alike f s s') (sel : Byte) (accept : UnitType → Bool) {cost cost' : Nat}
    (hc : cost' = cost) {k k' : State → UnitContext → UnitId → Result}
    (hk : ∀ t t' ctx u, Alike f t t' → AlikeEnds f g (k t ctx u) (k' t' ctx u)) :
    AlikeEnds f g (s.resolve sel accept cost k) (s'.resolve sel accept cost' k') := by
  rw [State.resolve, State.resolve, h.ctx]
  split
  · exact h.fail _ hc
  next ctx _ =>
    have hcalled := h.call (k := .lookup sel) rfl
    split
    · exact hcalled.fail _ hc
    · exact hcalled.fail _ hc
    next u _ =>
      have hchecked := hcalled.call (k := .canAccess ctx.self u) rfl
      split
      · split
        · exact hchecked.fail _ hc
        · exact hchecked.fail _ hc
        · exact hk _ _ ctx u hchecked
      · exact hcalled.fail _ hc

theorem Alike.openMemIf (h : Alike f s s') (sel : Byte) (ctx : UnitContext) (u : UnitId) {cost cost' : Nat}
    (hc : cost' = cost) {k k' : State → MemInterface → Result}
    (hk : ∀ t t' mi, Alike f t t' → AlikeEnds f g (k t mi) (k' t' mi)) :
    AlikeEnds f g (s.openMemIf sel ctx u cost k) (s'.openMemIf sel ctx u cost' k') := by
  have hcalled := h.call (k := .memIf u) rfl
  rw [State.openMemIf, State.openMemIf]
  split
  · exact hcalled.fail _ hc
  · exact hcalled.fail _ hc
  next mi _ => exact hk _ _ mi hcalled

theorem Alike.unitRead (h : Alike f s s') (sel : Byte) (ua : Word) :
    AlikeEnds f f (s.unitRead sel ua) (s'.unitRead sel ua) := by
  refine h.resolve sel _ h.unitFailCost fun s s' ctx u h => ?_
  refine h.openMemIf sel ctx u h.unitFailCost fun s s' mi h => ?_
  have hcalled := h.call (k := .readMemory u ua) rfl
  split
  · exact hcalled.fail _ h.unitFailCost
  · exact hcalled.fail _ h.unitFailCost
  · exact hcalled.setReg_ok .a rfl _ _

theorem Alike.unitWrite (h : Alike f s s') (sel : Byte) {ua ua' : Word} (hua : ua' = ua) :
    AlikeEnds f f (s.unitWrite sel ua) (s'.unitWrite sel ua') := by
  subst hua
  refine h.resolve sel _ h.unitFailCost fun s s' ctx u h => ?_
  refine h.openMemIf sel ctx u h.unitFailCost fun s s' mi h => ?_
  have hcalled := h.call (k := .writeMemory u ua' (loByte s.a)) rfl
  rw [h.a]
  split
  · exact hcalled.fail _ h.unitFailCost
  · exact hcalled.fail _ h.unitFailCost
  · exact hcalled.advance_ok _ _

theorem Alike.execScan (h : Alike f s s') (dst : Word) : AlikeEnds f f (execScan dst s) (execScan dst s') := by
  rw [Machine.execScan, Machine.execScan, h.ctx, h.mem]
  split
  · exact h.fail _ h.failCost
  next ctx _ =>
    have hcalled := h.call (k := .scan ctx.self s.mem dst) rfl
    split
    · exact hcalled.fail _ h.failCost
    · exact (hcalled.memWriteBytes _ _).advance_ok _ _

theorem Alike.execScanm (h : Alike f s s') (src dst : Word) :
    AlikeEnds f f (execScanm src dst s) (execScanm src dst s') := by
  rw [Machine.execScanm, Machine.execScanm, h.scanmLength]
  exact (h.memCopy _ _ _).advance_ok _ _

theorem Alike.execEnergy (h : Alike f s s') (sub : Byte) : AlikeEnds f f (execEnergy sub s) (execEnergy sub s') := by
  rw [Machine.execEnergy, Machine.execEnergy, h.ctx]
  split
  · exact h.fail _ h.failCost
  next ctx _ =>
    have hcalled := h.call (k := .energy ctx.self sub) rfl
    split
    · exact hcalled.fail _ h.failCost
    · split
      · exact hcalled.setReg_ok .a rfl _ _
      · exact hcalled.fail _ h.failCost

theorem Alike.assembleStart (h : Alike f s s') (sel : Byte) (ctx : UnitContext) (u : UnitId) :
    AlikeEnds f f (s.assembleStart sel ctx u) (s'.assembleStart sel ctx u) := by
  have hcalled := h.call (k := .assemblerStart u) rfl
  rw [State.assembleStart, State.assembleStart]
  split
  · exact hcalled.fail _ h.failCost
  · split
    · exact hcalled.setReg_ok .a rfl _ _
    · refine hcalled.openMemIf sel ctx u h.failCost fun s s' _ h => ?_
      split
      · exact h.fail _ h.failCost
      · exact h.fail _ h.failCost
      · exact h.fail _ h.failCost
      · exact (h.setAssembler ctx u _).setReg_ok .a rfl _ _

theorem Alike.assembleStop (h : Alike f s s') (ctx : UnitContext) (u : UnitId) :
    AlikeEnds f f (s.assembleStop ctx u) (s'.assembleStop ctx u) := by
  have hcalled := h.call (k := .assemblerStop u) rfl
  rw [State.assembleStop, State.assembleStop]
  split
  · exact hcalled.fail _ h.failCost
  · exact (hcalled.setAssembler ctx u _).setReg_ok .a rfl _ _

theorem Alike.assembleQuery (h : Alike f s s') (ctx : UnitContext) (u : UnitId) :
    AlikeEnds f f (s.assembleQuery ctx u) (s'.assembleQuery ctx u) := by
  have hcalled := h.call (k := .assemblerQuery u) rfl
  rw [State.assembleQuery, State.assembleQuery]
  split
  · exact hcalled.fail _ h.failCost
  · exact hcalled.setReg_ok .a rfl _ _

theorem Alike.execAssemble (h : Alike f s s') (sel cmd : Byte) :
    AlikeEnds f f (execAssemble sel cmd s) (execAssemble sel cmd s') := by
  refine h.resolve sel _ h.failCost fun s s' ctx u h => ?_
  split
  · exact h.assembleStart sel ctx u
  · exact h.assembleStop ctx u
  · exact h.assembleQuery ctx u
  · exact h.fail _ h.failCost

/-! ### Alike steps -/

/-- An ARITHMETIC instruction that succeeds leaves the same flags, whatever they were. -/
theorem Alike.exec_of_arithmetic (h : Alike f s s') {i : Instr} (hi : i.category = .arithmetic) :
    AlikeEnds f True (exec i s) (exec i s') := by
  cases i with
  | incA | incB | incC | incD | decA | decB | decC | decD | addAB | subAB | andAB | orAB | xorAB | notA | addAImm
  | subAImm | andAImm | orAImm | xorAImm | mulAB | shl | shr =>
    exact h.aluWrite _ (by simp only [h.a, h.b, h.c, h.d]) _ _
  | cmpAB | cmpAImm => exact h.aluFlags (by simp only [h.a, h.b]) _ _
  | divAB => exact h.execDivAB
  | _ => cases hi

/-- Every instruction is executed alike in alike states, where these agree on the flags if it reads them. -/
theorem Alike.exec (h : Alike f s s') (i : Instr) (hf : readsFlags i = true → f) :
    AlikeEnds f f (exec i s) (exec i s') := by
  cases i with
  | incA | incB | incC | incD | decA | decB | decC | decD | addAB | subAB | andAB | orAB | xorAB | notA | addAImm
  | subAImm | andAImm | orAImm | xorAImm | mulAB | shl | shr | cmpAB | cmpAImm | divAB =>
    exact (h.exec_of_arithmetic rfl).mono fun _ => trivial
  | nop => exact h.advance_ok _ _
  | movAB | movAC | movAD | movBA | movBC | movBD | movCA | movCB | movCD | movDA | movDB | movDC =>
    exact h.setReg_ok _ (h.reg _) _ _
  | xchgAB => exact (h.setReg .a h.b).setReg_ok .b h.a _ _
  | movASp => exact h.setReg_ok .a (by rw [h.sp]) _ _
  | movSpA => exact (h.setSp (by rw [h.a])).advance_ok _ _
  | movAImm | movBImm | movCImm | movDImm | loadImm | loadImmB => exact h.setReg_ok _ rfl _ _
  | pushA | pushB | pushC | pushD => exact (h.push16 (h.reg _)).advance_ok _ _
  | popA | popB | popC | popD => exact h.popSp.setReg_ok _ h.popWord _ _
  | loadA | loadInd | loadReg | loadAbs =>
    exact h.setReg_ok .a (by simp only [h.memRead16, h.relTarget, h.eaIndexed, h.eaReg, h.absTarget]) _ _
  | loadAByte | loadIndByte | loadRegByte | loadAbsByte =>
    exact h.setReg_ok .a (by simp only [h.memRead8, h.relTarget, h.eaIndexed, h.eaReg, h.absTarget]) _ _
  | storeA off => exact h.storeWord (h.relTarget off) _
  | storeInd off => exact h.storeWord (h.eaIndexed off) _
  | storeReg r => exact h.storeWord (h.eaReg r) _
  | storeAbs addr => exact h.storeWord (h.absTarget addr) _
  | storeAByte off => exact h.storeByte (h.relTarget off) _
  | storeIndByte off => exact h.storeByte (h.eaIndexed off) _
  | storeRegByte r => exact h.storeByte (h.eaReg r) _
  | storeAbsByte addr => exact h.storeByte (h.absTarget addr) _
  | jmp off => exact h.jumpTo (h.relTarget off)
  | jmpAbs addr => exact h.jumpTo (h.absTarget addr)
  | ret => exact h.jumpTo (by rw [h.c, h.wrap])
  | jz | jnz | jc | jnc | jg | jge | jl | jle | jul | juge =>
    obtain ⟨hz, hcy⟩ := h.flags (hf rfl)
    exact h.jumpIf (by rw [hz, hcy]) _
  | call off => exact h.callTo (h.relTarget off) _
  | callAbs addr => exact h.callTo (h.absTarget addr) _
  | unitMemRead sel ua => exact h.unitRead sel ua
  | unitMemWrite sel ua => exact h.unitWrite sel rfl
  | unitMemWriteDyn sel => exact h.unitWrite sel h.b
  | scan dst => exact h.execScan dst
  | scanm src dst => exact h.execScanm src dst
  | energy sub => exact h.execEnergy sub
  | assemble sel cmd => exact h.execAssemble sel cmd

/-- States that agree on all a step reads fetch the same instruction and execute it alike. -/
theorem Alike.step (h : Alike True s.beginStep s'.beginStep) : AlikeEnds True True (step s) (step s') := by
  have hpc : s'.pc = s.pc := h.pc
  have hdec : s'.beginStep.decodeAt s'.pc = s.beginStep.decodeAt s.pc := by
    rw [hpc, State.decodeAt_congr h.mem h.params]
  rw [Machine.step, Machine.step, hdec]
  split
  · exact h.fail _ h.failCost
  next i _ => exact h.exec i fun _ => trivial

end Alike

/-! ### The rules -/

/-- What alike ends come to, where a success leaves the flags no less alike than a failure does. -/
theorem AlikeEnds.exists_next {f g : Prop} {r r' : Result} (h : AlikeEnds f g r r') (hfg : f → g) :
    ∃ t t', r = .next t ∧ r' = .next t' ∧ t'.result = t.result ∧ t'.message = t.message ∧ Alike f t t' ∧
      ((∃ c, t.result = some (.success c)) → g → flagsSame t t') := by
  cases h with
  | ok h c => exact ⟨_, _, rfl, rfl, rfl, rfl, { h with flags := fun hf => h.flags (hfg hf) }, fun _ => h.flags⟩
  | @fail u u' h e c =>
    have hmsg : e.message u'.params.hexCase = e.message u.params.hexCase := by rw [h.params]
    exact ⟨_, _, rfl, rfl, rfl, hmsg, { h with }, nofun⟩

/-- Alike states with the same flags have the same architectural state. -/
theorem Alike.toVMState {s s' : State} (h : Alike True s s') : s'.toVMState = s.toVMState := by
  obtain ⟨hz, hcy⟩ := h.flags trivial
  calc s'.toVMState = ⟨s'.a, s'.b, s'.c, s'.d, s'.pc, s'.sp, s'.z, s'.cy, s'.mem⟩ := rfl
    _ = s.toVMState := by rw [h.a, h.b, h.c, h.d, h.pc, h.sp, hz, hcy, h.mem]

/-- The context a step is given depends on the one that stands and on the queue alone (log 6). -/
theorem State.nextCtx_congr {s s' : State} (hctx : s'.ctx = s.ctx) (hinputs : s'.inputs = s.inputs) :
    s'.nextCtx = s.nextCtx := by
  rw [State.nextCtx, hinputs, hctx, State.nextCtx]

/-- A step begins alike whatever the run loop's state and the outputs of the steps before are: it clears the calls. -/
theorem alike_beginStep {s s' : State} (hvm : s'.toVMState = s.toVMState) (hparams : s'.params = s.params)
    (hctx : s'.ctx = s.ctx) (hinputs : s'.inputs = s.inputs) : Alike True s.beginStep s'.beginStep where
  reg := State.reg_congr (congrArg VMState.a hvm) (congrArg VMState.b hvm) (congrArg VMState.c hvm)
    (congrArg VMState.d hvm)
  pc := congrArg VMState.pc hvm
  sp := congrArg VMState.sp hvm
  mem := congrArg VMState.mem hvm
  params := hparams
  ctx := State.nextCtx_congr hctx hinputs
  inputs := congrArg List.tail hinputs
  calls := rfl
  flags _ := ⟨congrArg VMState.z hvm, congrArg VMState.cy hvm⟩

/-- Settles O12: the two steps begin alike, flags included, and so end alike. -/
theorem runLoopStateIsInvisible : Obligations.RunLoopStateIsInvisible := by
  intro s s' hvm hparams hctx hinputs
  obtain ⟨t, t', ht, ht', hres, hmsg, h, -⟩ := (alike_beginStep hvm hparams hctx hinputs).step.exists_next id
  exact ⟨t, t', ht, ht', h.toVMState, h.params, h.ctx, h.inputs, h.calls, hres, hmsg⟩

/-- States that differ in the flags alone are alike but for the flags. -/
theorem alike_setFlags (s : State) (z cy : Bool) : Alike False s (s.setFlags z cy) :=
  ⟨fun _ => by simp, rfl, rfl, rfl, rfl, rfl, rfl, rfl, False.elim⟩

/-- An instruction that does not read the flags ends alike under any flags, with the same ones after a success that
wrote them. -/
theorem exec_setFlags_alikeEnds {i : Instr} (hi : readsFlags i = false) (s : State) (z cy : Bool) :
    AlikeEnds False (i.category = .arithmetic) (exec i s) (exec i (s.setFlags z cy)) := by
  have h := alike_setFlags s z cy
  by_cases hcat : i.category = .arithmetic
  · exact (h.exec_of_arithmetic hcat).mono fun _ => trivial
  · exact (h.exec i (by simp [hi])).mono fun hcat' => hcat hcat'

/-- Settles O16: the flags are outside the footprint of the other categories, and an instruction that does not read
them ends alike whatever they are. -/
theorem flagsAreWrittenByArithmeticAndReadByConditionalJumps :
    Obligations.FlagsAreWrittenByArithmeticAndReadByConditionalJumps := by
  refine ⟨fun i s t hexec hcat => (exec_endsWithin i s t hexec).flags (decide_eq_false hcat), ?_⟩
  intro i s z cy hi
  obtain ⟨t, t', ht, ht', hres, hmsg, h, hflags⟩ := (exec_setFlags_alikeEnds hi s z cy).exists_next False.elim
  obtain ⟨hused, hhalted⟩ := (exec_endsFrom i s).run_congr (exec_endsFrom i (s.setFlags z cy)) ht ht' hres rfl rfl
  exact ⟨t, t', ht, ht', h.reg, h.pc, h.sp, h.mem, h.params, h.ctx, h.inputs, h.calls, hres, hmsg, hused, hhalted,
    fun ⟨c, hcat, hc⟩ => hflags ⟨c, hc⟩ hcat⟩

end Sys2Proof.Machine
end

section
/-! PROOF. Memory (20_memory.md R40 to R48): which instructions write it and `sp`, a word written and read back, and
from that the round trip of the stack. -/

namespace Sys2Proof.Machine

/-- Settles O18: memory and `sp` outside the footprint are as before. -/
theorem memoryAndStackPointerAreWrittenByTheirWriters : Obligations.MemoryAndStackPointerAreWrittenByTheirWriters := by
  intro i s t hexec
  have h : WritesOnly (footprint i) s t := exec_endsWithin i s t hexec
  exact ⟨fun hne => Bool.of_not_eq_false (mt h.mem hne), fun hne => Bool.of_not_eq_false (mt h.sp hne)⟩

/-! ### A word written and read back -/

/-- Two bytes or more keep the two addresses of a word apart (R43). -/
theorem State.wrap_add_one_ne {s : State} (hN : 2 ≤ s.size) (a : Int) : s.wrap (a + 1) ≠ s.wrap a := by
  intro heq
  have hmod : a + 1 ≡ a [ZMOD s.size] := (s.wrap_eq_wrap _ _).1 heq
  have hdvd : (s.size : Int) ∣ 1 := by simpa using hmod.symm.dvd
  have hle : (s.size : Int) ≤ 1 := Int.le_of_dvd one_pos hdvd
  omega

/-- In a memory of one byte every address is 0 (R44). -/
theorem State.wrap_of_size_one {s : State} (hN : s.size = 1) (a : Int) : s.wrap a = 0 := by
  have hlt := s.wrap_lt a
  omega

/-- A word written reads back, across the top of memory too (R43). -/
theorem State.memRead16_memWrite16 {s : State} (h : s.mem.wf = true) (hN : 2 ≤ s.size) (a : Int) (v : Word) :
    (s.memWrite16 a v).memRead16 a = v := by
  rw [State.memRead16, State.memRead8_memWrite16 h, State.memRead8_memWrite16 h, if_neg (State.wrap_add_one_ne hN a).symm,
    if_pos rfl, if_pos rfl, u16_loByte_hiByte]

/-- In a memory of one byte the high byte, written last, is read as both (R44). -/
theorem State.memRead16_memWrite16_of_size_one {s : State} (h : s.mem.wf = true) (hN : s.size = 1) (a : Int) (v : Word) :
    (s.memWrite16 a v).memRead16 a = u16 (hiByte v) (hiByte v) := by
  simp only [State.memRead16, State.memRead8_memWrite16 h, State.wrap_of_size_one hN, if_true]

/-- Settles O34: the two sizes, and a byte at an address that is neither of the word's. -/
theorem wordWriteReadsBack : Obligations.WordWriteReadsBack := by
  refine fun s a v h => ⟨fun hN => State.memRead16_memWrite16 h hN a v,
    fun hN => State.memRead16_memWrite16_of_size_one h hN a v, fun x hlo hhi => ?_⟩
  rw [State.memRead8_memWrite16 h, if_neg (mt (s.wrap_eq_wrap x _).1 hhi), if_neg (mt (s.wrap_eq_wrap x a).1 hlo)]

/-! ### The round trip of the stack -/

/-- The four pushes are one operation (R181 to R184). -/
theorem exec_of_mem_pushRows {i : Instr} {op : Byte} {r : Reg} (h : (i, op, r) ∈ pushRows) (s : State) :
    exec i s = s.pushReg r := by
  simp only [pushRows, List.mem_cons, List.not_mem_nil, or_false, Prod.mk.injEq] at h
  rcases h with ⟨rfl, -, rfl⟩ | ⟨rfl, -, rfl⟩ | ⟨rfl, -, rfl⟩ | ⟨rfl, -, rfl⟩ <;> rfl

/-- The four pops are one operation (R185 to R188). -/
theorem exec_of_mem_popRows {i : Instr} {op : Byte} {r : Reg} (h : (i, op, r) ∈ popRows) (s : State) :
    exec i s = s.popReg r := by
  simp only [popRows, List.mem_cons, List.not_mem_nil, or_false, Prod.mk.injEq] at h
  rcases h with ⟨rfl, -, rfl⟩ | ⟨rfl, -, rfl⟩ | ⟨rfl, -, rfl⟩ | ⟨rfl, -, rfl⟩ <;> rfl

/-- The word pushed is the one a pop returns (R47, R48). -/
theorem State.popWord_push16 {s : State} (h : s.mem.wf = true) (hN : 2 ≤ s.size) (v : Word) :
    (s.push16 v).popWord = v :=
  State.memRead16_memWrite16 (s := s.setSp ((s.sp : Int) - 2)) h hN _ v

/-- A pop moves `sp` back to where it was before the push (R47, R48). -/
theorem State.popSp_push16_sp (s : State) (v : Word) : (s.push16 v).popSp.sp = s.sp := by
  calc (s.push16 v).popSp.sp
      = s.wrap ((s.wrap ((s.sp : Int) - 2) : Nat) + 2) := rfl
    _ = s.wrap (s.sp : Int) := by rw [State.wrap_wrap_add, sub_add_cancel]
    _ = s.sp := s.wrap_of_lt s.spInRange

/-- What a push leaves to the next pop: the word and the `sp` of `push16`. -/
theorem State.pushReg_next (s : State) (r : Reg) :
    ∃ t, s.pushReg r = .next t ∧ t.popWord = (s.push16 (s.reg r)).popWord ∧
      t.popSp.sp = (s.push16 (s.reg r)).popSp.sp :=
  ⟨_, rfl, rfl, rfl⟩

/-- What a pop answers: the popped register holds the word at the old `sp`, and `sp` has moved past it (R48). -/
theorem State.popReg_next (s : State) (r : Reg) :
    ∃ u, s.popReg r = .next u ∧ u.reg r = s.popWord ∧ u.sp = s.popSp.sp := by
  refine ⟨_, rfl, ?_, State.setReg_sp _ _ _⟩
  exact (State.reg_setReg s.popSp r r s.popWord).trans (if_pos rfl)

/-- Settles O33: the pop reads the word at the `sp` where the push wrote it, and undoes its move of `sp`. -/
theorem popAfterPushGivesTheValueBack : Obligations.PopAfterPushGivesTheValueBack := by
  rintro s i j op op' r q ⟨-, -, hmem, -⟩ hN hi hj
  obtain ⟨t, ht, htword, htsp⟩ := s.pushReg_next r
  obtain ⟨u, hu, huword, husp⟩ := t.popReg_next q
  refine ⟨t, u, (exec_of_mem_pushRows hi s).trans ht, (exec_of_mem_popRows hj t).trans hu, ?_, ?_⟩
  · rw [huword, htword, State.popWord_push16 hmem hN]
  · rw [husp, htsp, State.popSp_push16_sp]

end Sys2Proof.Machine
end

section
/-! PROOF. The fetch and the length law (30_encoding.md R60, R61). -/

namespace Sys2Proof

/-! ### The length law, range by range (R60) -/

theorem lengthOf_of_le {op : Byte} (h : op.toNat ≤ 0x3F) : lengthOf op = 1 :=
  if_pos h

theorem lengthOf_of_mem_40_7F {op : Byte} (h : 0x40 ≤ op.toNat ∧ op.toNat ≤ 0x7F) : lengthOf op = 3 := by
  rw [lengthOf, if_neg (by omega), if_pos h.2]

theorem lengthOf_of_mem_80_BF {op : Byte} (h : 0x80 ≤ op.toNat ∧ op.toNat ≤ 0xBF) : lengthOf op = 4 := by
  rw [lengthOf, if_neg (by omega), if_neg (by omega), if_pos h.2]

theorem lengthOf_of_ge {op : Byte} (h : 0xC0 ≤ op.toNat) : lengthOf op = 5 := by
  rw [lengthOf, if_neg (by omega), if_neg (by omega), if_neg (by omega)]

/-- The four ranges are the four values of the opcode's top two bits (R60). -/
theorem lengthOf_eq_getD (op : Byte) : lengthOf op = [1, 3, 4, 5].getD (op.toNat / 64) 0 := by
  have hlt := op.isLt
  obtain h | h | h | h : op.toNat / 64 = 0 ∨ op.toNat / 64 = 1 ∨ op.toNat / 64 = 2 ∨ op.toNat / 64 = 3 := by omega
  · rw [h, lengthOf_of_le (by omega)]; rfl
  · rw [h, lengthOf_of_mem_40_7F (by omega)]; rfl
  · rw [h, lengthOf_of_mem_80_BF (by omega)]; rfl
  · rw [h, lengthOf_of_ge (by omega)]; rfl

end Sys2Proof

namespace Sys2Proof.Machine

/-! ### What a decoded snapshot holds (R34, R80) -/

@[simp] theorem State.decodeAt_opcode (s : State) (addr : Nat) : (s.decodeAt addr).opcode = s.memRead8 addr := rfl

@[simp] theorem State.decodeAt_len (s : State) (addr : Nat) :
    (s.decodeAt addr).len = lengthOf (s.memRead8 addr) := rfl

@[simp] theorem State.decodeAt_ins (s : State) (addr : Nat) :
    (s.decodeAt addr).ins = s.fetchBytes addr (lengthOf (s.memRead8 addr)) := rfl

/-- Byte `k` of the snapshot is the one at `(addr + k) mod N` (R61). -/
theorem State.decodeAt_ins_getElem? {s : State} {addr k : Nat} (h : k < (s.decodeAt addr).len) :
    (s.decodeAt addr).ins[k]? = some (s.mem.read ((addr + k) % s.size)) := by
  rw [State.decodeAt_len] at h
  rw [State.decodeAt_ins, State.fetchBytes_getElem? s _ addr k h, State.memRead8, State.wrap_natCast_add]

/-- Settles O2: the length is the law's for the byte fetched, and the snapshot holds as many bytes, each wrapped. -/
theorem fetchFollowsLengthLaw : Obligations.FetchFollowsLengthLaw := by
  intro s addr
  refine ⟨?_, lengthOf_eq_getD _, State.fetchBytes_length s _ _, fun k => State.decodeAt_ins_getElem?, lengthOf_of_le,
    lengthOf_of_mem_40_7F, lengthOf_of_mem_80_BF, lengthOf_of_ge⟩
  rw [State.decodeAt_opcode, State.memRead8, State.wrap_natCast]

end Sys2Proof.Machine
end

section
/-! PROOF. Reserved bytes (30_encoding.md R71): a form reads the used bytes of its format and no others, and the
mnemonic comes from the opcode alone. -/

namespace Sys2Proof

open Machine (usedBytes)

/-- The mnemonic of what a form makes does not depend on the operands. -/
theorem mnemonic_build (k : Mnemonic) (p : AbsAddrAt) (ins : List Byte) : (k.form.build p ins).mnemonic = k := by
  cases k <;> rfl

/-- Every format uses the opcode byte (R62). -/
theorem zero_mem_usedBytes (p : AbsAddrAt) (f : Format) : 0 ∈ usedBytes p f := by
  cases p <;> cases f <;> decide

/-- A 16-bit field depends on its two bytes alone (R63). -/
theorem wordAt_congr {ins ins' : List Byte} {k : Nat} (hlo : insAt ins' k = insAt ins k)
    (hhi : insAt ins' (k + 1) = insAt ins (k + 1)) : wordAt ins' k = wordAt ins k := by
  rw [wordAt, hlo, hhi, wordAt]

/-- A register field depends on the low two bits of its byte alone (R65). -/
theorem regOfField_congr {b b' : Byte} (h : b'.toNat % 4 = b.toNat % 4) : regOfField b' = regOfField b := by
  rw [regOfField, h, regOfField]

/-- The address of an absolute form depends on the two bytes of its layout alone (R67). -/
theorem absAddr_congr {p : AbsAddrAt} {ins ins' : List Byte}
    (h : ∀ n ∈ usedBytes p .f4a, insAt ins' n = insAt ins n) : absAddr p ins' = absAddr p ins := by
  cases p with
  | byte1 => exact wordAt_congr (h 1 (by decide)) (h 2 (by decide))
  | byte2 => exact wordAt_congr (h 2 (by decide)) (h 3 (by decide))

/-- A form makes the same instruction of two snapshots that agree on the bytes its format uses and, for F3X, on the
register field (R71). -/
theorem Form.build_congr {p : AbsAddrAt} {ins ins' : List Byte} (f : Form)
    (hused : ∀ n ∈ usedBytes p f.format, insAt ins' n = insAt ins n)
    (hfield : f.format = .f3x → (insAt ins' 1).toNat % 4 = (insAt ins 1).toNat % 4) :
    f.build p ins' = f.build p ins := by
  have used (n : Nat) (hn : (usedBytes p f.format).contains n = true) : insAt ins' n = insAt ins n :=
    hused n (List.contains_iff_mem.1 hn)
  cases f with
  | f1 i | f5n i => rfl
  | f3r mk | f3i mk | f5i mk | f5d mk => exact congrArg mk (wordAt_congr (used 1 rfl) (used 2 rfl))
  | f3x mk => exact congrArg mk (regOfField_congr (hfield rfl))
  | f4a mk => exact congrArg mk (absAddr_congr hused)
  | f4u mk => exact congrArg₂ mk (used 1 rfl) (wordAt_congr (used 2 rfl) (used 3 rfl))
  | f4v mk | f5e mk => exact congrArg mk (used 1 rfl)
  | f5m mk => exact congrArg₂ mk (wordAt_congr (used 1 rfl) (used 2 rfl)) (wordAt_congr (used 3 rfl) (used 4 rfl))
  | f5a mk => exact congrArg₂ mk (used 1 rfl) (used 2 rfl)

/-- A snapshot of an assigned opcode decodes to what the form of its row makes of it. -/
theorem decodeIns_of_mem {m : OpcodeMap} {k : Mnemonic} {ins : List Byte} (p : AbsAddrAt)
    (h : ((insAt ins 0).toNat, k) ∈ m.rows) : decodeIns m p ins = some (k.form.build p ins) := by
  rw [decodeIns, (m.mnemonicOf_eq_some _ k).2 h, Option.map_some]

/-- Settles O3: both snapshots have the opcode of the same row, whose form makes the same of both. -/
theorem reservedBytesAreIgnored : Obligations.ReservedBytesAreIgnored := by
  intro m p op k ins ins' hrow _ _ hop hused hfield
  subst hop
  have hrow' : ((insAt ins' 0).toNat, k) ∈ m.rows := by
    rwa [hused 0 (zero_mem_usedBytes p _)]
  refine ⟨k.form.build p ins, decodeIns_of_mem p hrow, ?_, mnemonic_build k p ins⟩
  rw [decodeIns_of_mem p hrow', Form.build_congr k.form hused hfield]

end Sys2Proof
end

section
/-! PROOF. Undefined opcodes (30_encoding.md R72, R79): which they are, and the failure of the step that meets one. -/

namespace Sys2Proof

open Machine (undefinedOpcode undefinedRanges)

/-- A snapshot decodes to nothing exactly when its first byte is undefined (R72). -/
theorem decodeIns_eq_none {m : OpcodeMap} {p : AbsAddrAt} {ins : List Byte} :
    decodeIns m p ins = none ↔ m.assigns (insAt ins 0) = false := by
  rw [decodeIns, Option.map_eq_none_iff, m.mnemonicOf_eq_none]

/-! ### The default map (R75 to R79) -/

/-- The runs of consecutive opcodes that the default map assigns, first and last: the gaps between them are R79's
`undefinedRanges`. -/
def assignedRanges : List (Nat × Nat) :=
  [(0x00, 0x1E), (0x20, 0x28), (0x40, 0x4B), (0x50, 0x59), (0x60, 0x6B), (0x80, 0x83), (0x90, 0x92), (0xB0, 0xB1),
   (0xC0, 0xC3), (0xE0, 0xE1), (0xF0, 0xF3)]

/-- The rows of R75 to R78 are those runs, in order. -/
theorem defaultRows_map_fst :
    defaultRows.map Prod.fst = assignedRanges.flatMap fun r => List.range' r.1 (r.2 + 1 - r.1) := by
  decide

/-- The default map assigns the opcodes of the runs. -/
theorem assigns_default (op : Byte) :
    OpcodeMap.default.assigns op = true ↔ ∃ r ∈ assignedRanges, r.1 ≤ op.toNat ∧ op.toNat ≤ r.2 := by
  have hruns : OpcodeMap.default.assigns op = true ↔ op.toNat ∈ defaultRows.map Prod.fst := by
    simp [OpcodeMap.assigns, OpcodeMap.default]
  rw [hruns, defaultRows_map_fst, List.mem_flatMap]
  refine exists_congr fun r => and_congr_right fun _ => ?_
  rw [List.mem_range'_1]
  omega

theorem undefinedOpcode_iff (op : Byte) :
    undefinedOpcode op = true ↔ ∃ r ∈ undefinedRanges, r.1 ≤ op.toNat ∧ op.toNat ≤ r.2 := by
  simp [undefinedOpcode]

/-- The runs and R79's ranges part the 256 opcodes, so a byte is in one of the latter when in none of the former. -/
theorem assigns_default_eq_false (op : Byte) :
    OpcodeMap.default.assigns op = false ↔ undefinedOpcode op = true := by
  have hlt := op.isLt
  rw [← Bool.not_eq_true, assigns_default, undefinedOpcode_iff]
  simp only [assignedRanges, undefinedRanges, List.mem_cons, List.not_mem_nil, or_false, exists_eq_or_imp,
    exists_eq_left]
  omega

/-- R79's count. -/
theorem length_filter_undefinedOpcode :
    ((List.range 256).filter fun n => undefinedOpcode (BitVec.ofNat 8 n)).length = 163 := by
  decide +kernel

end Sys2Proof

namespace Sys2Proof.Machine

/-- An undefined opcode decodes to no instruction (R72). -/
theorem State.decodeAt_instr_of_not_assigns {s : State} {addr : Nat}
    (h : s.params.opcodeMap.assigns (s.memRead8 addr) = false) : (s.decodeAt addr).instr = none := by
  obtain ⟨rest, hins⟩ := s.decodeAt_ins_cons addr
  refine decodeIns_eq_none.2 ?_
  rwa [← State.decodeAt_ins, hins, insAt_cons_zero]

/-- A step that meets an undefined opcode fails (R72, R81), at a cost of 1 cycle (R303). -/
theorem step_of_not_assigns {s : State} (h : s.params.opcodeMap.assigns (s.memRead8 s.pc) = false) :
    step s = s.beginStep.fail (.undefinedInstruction (s.memRead8 s.pc)) 1 := by
  rw [step, State.decodeAt_beginStep, State.decodeAt_instr_of_not_assigns h, State.failCost_eq, State.decodeAt_opcode]

/-- Settles O4: the decoder, the default map's ranges and their count, and the step's failure. -/
theorem undefinedOpcodesFail : Obligations.UndefinedOpcodesFail := by
  refine ⟨fun _ _ _ _ => decodeIns_eq_none, assigns_default_eq_false, length_filter_undefinedOpcode, fun s h => ?_⟩
  obtain ⟨t, ht⟩ : ∃ t, s.beginStep.fail (.undefinedInstruction (s.memRead8 s.pc)) 1 = .next t := ⟨_, rfl⟩
  obtain ⟨hfailed, hcalls, -⟩ := State.fail_next ht
  have hundefined : (s.decodeAt s.pc).isUndefined = true := by
    rw [Decoded.isUndefined, State.decodeAt_instr_of_not_assigns h, Option.isNone_none]
  exact ⟨hundefined, rfl, t, (step_of_not_assigns h).trans ht, hfailed.1, hfailed, hcalls⟩

end Sys2Proof.Machine
end

section
/-! PROOF. The spec's own examples (30_encoding.md R75 to R79): the bytes of each under the default map. -/

namespace Sys2Proof

/-- Settles O5: the default map has a row for the first byte of each string, and the form of the row's mnemonic reads the
operands. -/
theorem exampleWordsDecode : Obligations.ExampleWordsDecode :=
  ⟨decodeIns_of_mem (k := .movAImm) .byte1 (by decide), decodeIns_of_mem (k := .loadImm) .byte1 (by decide),
    decodeIns_of_mem (k := .loadA) .byte1 (by decide), decodeIns_of_mem (k := .storeRegByte) .byte1 (by decide),
    decodeIns_of_mem (k := .loadAbs) .byte1 (by decide), decodeIns_of_mem (k := .jmp) .byte1 (by decide),
    decodeIns_of_mem (k := .callAbs) .byte1 (by decide), decodeIns_of_mem (k := .unitMemRead) .byte1 (by decide),
    decodeIns_of_mem (k := .unitMemWriteDyn) .byte1 (by decide), decodeIns_of_mem (k := .scan) .byte1 (by decide),
    decodeIns_of_mem (k := .scanm) .byte1 (by decide), decodeIns_of_mem (k := .assemble) .byte1 (by decide)⟩

end Sys2Proof
end

section
/-! PROOF. NOP and DATA_MOVE (40_nop_data_move.md R100 to R122): what the end of a success leaves, what a register
written leaves, and from both the copies, the immediate loads and the exchanges. -/

namespace Sys2Proof.Machine

/-! ### The frame of a register written -/

theorem onlyRegs_setReg (s : State) (r : Reg) (v : Word) : onlyRegs s (s.setReg r v) [r] := by
  refine ⟨⟨fun q hq => ?_, by simp, fun addr => by simp, by simp [envSame]⟩, by simp [flagsSame]⟩
  rw [State.reg_setReg, if_neg (List.ne_of_not_mem_cons hq)]

/-- Two frames in a row write the registers of both. -/
theorem onlyRegs_trans {s u t : State} {W W' : List Reg} (hsu : onlyRegs s u W) (hut : onlyRegs u t W') :
    onlyRegs s t (W ++ W') := by
  obtain ⟨⟨hreg, hsp, hmem, hparams, hctx, hinputs, hcalls⟩, hz, hcy⟩ := hsu
  obtain ⟨⟨hreg', hsp', hmem', hparams', hctx', hinputs', hcalls'⟩, hz', hcy'⟩ := hut
  refine ⟨⟨fun r hr => ?_, hsp'.trans hsp, fun addr => (hmem' addr).trans (hmem addr), hparams'.trans hparams,
    hctx'.trans hctx, hinputs'.trans hinputs, hcalls'.trans hcalls⟩, hz'.trans hz, hcy'.trans hcy⟩
  obtain ⟨hrW, hrW'⟩ : r ∉ W ∧ r ∉ W' := by simpa using hr
  exact (hreg' r hrW').trans (hreg r hrW)

/-! ### The end of a success -/

/-- The end of most meanings: past the instruction's bytes, and done, with nothing but `pc` written (R25, R81). -/
theorem State.advance_ok_next (s : State) (n c : Nat) :
    ∃ t, (s.advance n).ok c = .next t ∧ (∀ r, t.reg r = s.reg r) ∧ t.pc = (s.pc + n) % s.size ∧ succeeded s t c ∧
      onlyRegs s t [] := by
  have hreg (r : Reg) : (s.advance n).reg r = s.reg r := s.advance_reg n r
  exact ⟨_, rfl, hreg, s.wrap_natCast_add s.pc n, ⟨rfl, rfl, rfl⟩,
    ⟨fun r _ => hreg r, rfl, s.advance_memRead8 n, rfl, rfl, rfl, rfl⟩, rfl, rfl⟩

/-- The end of the meanings that write one register. -/
theorem State.setReg_advance_ok_next (s : State) (dst : Reg) (v : Word) (n c : Nat) :
    ∃ t, ((s.setReg dst v).advance n).ok c = .next t ∧ t.reg dst = v ∧ t.pc = (s.pc + n) % s.size ∧ succeeded s t c ∧
      onlyRegs s t [dst] := by
  obtain ⟨t, ht, hreg, hpc, hok, hframe⟩ := (s.setReg dst v).advance_ok_next n c
  refine ⟨t, ht, ?_, by simpa using hpc, by simpa [succeeded] using hok, onlyRegs_trans (onlyRegs_setReg s dst v) hframe⟩
  rw [hreg, State.reg_setReg, if_pos rfl]

/-! ### NOP, XCHG_AB, MOV_A_SP, MOV_SP_A -/

/-- XCHG_AB writes two registers, each with what the other held before (R114). -/
theorem execXchgAB_next (s : State) :
    ∃ t, exec .xchgAB s = .next t ∧ t.a = s.b ∧ t.b = s.a ∧ t.pc = (s.pc + 1) % s.size ∧ succeeded s t 1 ∧
      onlyRegs s t [.a, .b] := by
  obtain ⟨t, ht, hb, hpc, hok, hframe⟩ := (s.setReg .a s.b).setReg_advance_ok_next .b s.a 1 1
  have ⟨⟨hreg, _⟩, _⟩ := hframe
  have ha : t.a = s.b := hreg .a (by decide)
  exact ⟨t, ht, ha, hb, hpc, hok, onlyRegs_trans (onlyRegs_setReg s .a s.b) hframe⟩

/-- A word holds `sp` whole, since no memory has more than 65536 bytes (R7, R115). -/
theorem State.toNat_ofNat_sp (s : State) : (BitVec.ofNat 16 s.sp).toNat = s.sp := by
  have hsp : s.sp < s.size := s.spInRange
  have hsize := s.size_le
  rw [BitVec.toNat_ofNat]
  omega

/-- Settles O20: each meaning ends by `advance_ok_next`, after the writes of its own. -/
theorem nopExchangeAndStackPointerTransfer : Obligations.NopExchangeAndStackPointerTransfer := by
  intro p s
  refine ⟨⟨rfl, ?_⟩, ⟨rfl, execXchgAB_next s⟩, ⟨rfl, ?_⟩, rfl, ?_⟩
  · obtain ⟨t, ht, -, hend⟩ := s.advance_ok_next 1 1
    exact ⟨t, ht, hend⟩
  · obtain ⟨t, ht, ha, hend⟩ := s.setReg_advance_ok_next .a (BitVec.ofNat 16 s.sp) 1 1
    exact ⟨t, ht, ha, fun _ => (congrArg BitVec.toNat ha).trans s.toNat_ofNat_sp, hend⟩
  · obtain ⟨t, ht, hreg, hpc, hok, ⟨-, hsp, hmem, henv⟩, hflags⟩ := (s.setSp s.a.toNat).advance_ok_next 1 1
    exact ⟨t, ht, hsp.trans (s.wrap_natCast _), hpc, hok, fun r _ => (hreg r).trans (s.setSp_reg _ r), hflags, hmem,
      henv⟩

/-! ### Register copies and immediate loads -/

/-- The twelve copies are one operation, each with an opcode and two registers of its own (R102 to R113). -/
theorem encode_exec_of_mem_copyRows {i : Instr} {op : Byte} {dst src : Reg} (h : (i, op, dst, src) ∈ copyRows)
    (p : AbsAddrAt) (s : State) : encode p i = [op] ∧ exec i s = s.moveReg dst src := by
  simp only [copyRows, List.mem_cons, List.not_mem_nil, or_false, Prod.mk.injEq] at h
  rcases h with ⟨rfl, rfl, rfl, rfl⟩ | ⟨rfl, rfl, rfl, rfl⟩ | ⟨rfl, rfl, rfl, rfl⟩ | ⟨rfl, rfl, rfl, rfl⟩ |
    ⟨rfl, rfl, rfl, rfl⟩ | ⟨rfl, rfl, rfl, rfl⟩ | ⟨rfl, rfl, rfl, rfl⟩ | ⟨rfl, rfl, rfl, rfl⟩ |
    ⟨rfl, rfl, rfl, rfl⟩ | ⟨rfl, rfl, rfl, rfl⟩ | ⟨rfl, rfl, rfl, rfl⟩ | ⟨rfl, rfl, rfl, rfl⟩ <;> exact ⟨rfl, rfl⟩

/-- Settles O21: a copy writes its destination with the source's value, and nothing else. -/
theorem registerCopiesMoveSourceToDestination : Obligations.RegisterCopiesMoveSourceToDestination := by
  intro p s i op dst src hrow
  obtain ⟨henc, hexec⟩ := encode_exec_of_mem_copyRows hrow p s
  exact ⟨henc, hexec ▸ s.setReg_advance_ok_next dst (s.reg src) 1 1⟩

/-- The six immediate loads are one operation, each with an opcode, a register, a length and a cost of its own (R117 to
R122). -/
theorem encode_exec_of_mem_immediateRows {imm : Word} {i : Instr} {op : Byte} {dst : Reg} {len cycles : Nat}
    (h : (i, op, dst, len, cycles) ∈ immediateRows imm) (p : AbsAddrAt) (s : State) :
    encode p i = [op, loByte imm, hiByte imm] ++ List.replicate (len - 3) 0 ∧
      exec i s = s.moveImm dst imm len cycles := by
  simp only [immediateRows, List.mem_cons, List.not_mem_nil, or_false, Prod.mk.injEq] at h
  rcases h with ⟨rfl, rfl, rfl, rfl, rfl⟩ | ⟨rfl, rfl, rfl, rfl, rfl⟩ | ⟨rfl, rfl, rfl, rfl, rfl⟩ |
    ⟨rfl, rfl, rfl, rfl, rfl⟩ | ⟨rfl, rfl, rfl, rfl, rfl⟩ | ⟨rfl, rfl, rfl, rfl, rfl⟩ <;> exact ⟨rfl, rfl⟩

/-- Settles O22: an immediate load writes its destination with the immediate, and nothing else. -/
theorem immediateLoadsWriteTheImmediate : Obligations.ImmediateLoadsWriteTheImmediate := by
  intro p s imm i op dst len cycles hrow
  obtain ⟨henc, hexec⟩ := encode_exec_of_mem_immediateRows hrow p s
  exact ⟨henc, hexec ▸ s.setReg_advance_ok_next dst imm len cycles⟩

end Sys2Proof.Machine
end

section
/-! PROOF. ARITHMETIC (41_arithmetic.md R130 to R157): what each ALU operation computes, what the end of an instruction
that uses one leaves, and from both the statements. -/

namespace Sys2Proof.Machine

/-! ### The flags -/

/-- `Z` of a natural number is whether its low word is 0 (R27). -/
theorem zeroFlag_natCast (n : Nat) : zeroFlag n = decide (BitVec.ofNat 16 n = 0) := by
  have hlow : BitVec.ofNat 16 n = 0 ↔ n % 0x10000 = 0 := by
    rw [← BitVec.toNat_inj, BitVec.toNat_ofNat]
    rfl
  rw [zeroFlag, decide_eq_decide, hlow]
  omega

theorem zeroFlag_toNat (v : Word) : zeroFlag v.toNat = decide (v = 0) := by
  rw [zeroFlag_natCast, BitVec.ofNat_toNat, BitVec.setWidth_eq]

/-! ### Addition, subtraction and multiplication -/

theorem aluAdd_res_toNat (a b : Word) : (aluAdd a b).res.toNat = (a.toNat + b.toNat) % 0x10000 :=
  BitVec.toNat_ofNat _ _

theorem aluAdd_z (a b : Word) : (aluAdd a b).z = decide ((a.toNat + b.toNat) % 0x10000 = 0) :=
  decide_eq_decide.2 (by omega)

theorem aluAdd_cy (a b : Word) : (aluAdd a b).cy = decide (a.toNat + b.toNat > 0xFFFF) := rfl

theorem aluSub_res_toNat (a b : Word) : ((aluSub a b).res.toNat : Int) = ((a.toNat : Int) - b.toNat) % 0x10000 := by
  simp only [aluSub, BitVec.toNat_ofInt]
  omega

/-- The difference of two words is a multiple of `2^16` only when they are equal (R141). -/
theorem aluSub_z (a b : Word) : (aluSub a b).z = decide (a = b) := by
  have ha := a.isLt
  have hb := b.isLt
  refine decide_eq_decide.2 ?_
  rw [← BitVec.toNat_inj]
  omega

theorem aluSub_cy (a b : Word) : (aluSub a b).cy = decide (a.toNat < b.toNat) := rfl

theorem aluMul_res_toNat (a b : Word) : (aluMul a b).res.toNat = a.toNat * b.toNat % 0x10000 :=
  BitVec.toNat_ofNat _ _

theorem aluMul_z (a b : Word) : (aluMul a b).z = decide ((aluMul a b).res = 0) := by
  rw [← zeroFlag_toNat, aluMul_res_toNat]
  rfl

/-! ### Division -/

/-- A quotient of words is a word, so narrowing it loses nothing (R154). -/
theorem aluDiv_res (a b : Word) : (aluDiv a b).res = a / b := by
  rw [← BitVec.toNat_inj, BitVec.toNat_udiv]
  exact (BitVec.toNat_ofNat _ _).trans (Nat.mod_eq_of_lt ((Nat.div_le_self _ _).trans_lt a.isLt))

theorem aluDiv_z (a b : Word) : (aluDiv a b).z = decide ((aluDiv a b).res = 0) := zeroFlag_natCast _

theorem divRemainder_eq (a b : Word) : divRemainder a b = a % b := by
  rw [← BitVec.toNat_inj, BitVec.toNat_umod, divRemainder, ← Nat.mod_eq_sub_div_mul, BitVec.toNat_ofNat]
  exact Nat.mod_eq_of_lt ((Nat.mod_le _ _).trans_lt a.isLt)

/-! ### Shifts -/

/-- A bit of a word is what the division of R155 and R156 isolates. -/
theorem decide_div_two_pow_mod_two (a : Word) (k : Nat) : decide (a.toNat / 2 ^ k % 2 = 1) = a.getLsbD k :=
  Nat.testBit_eq_decide_div_mod_eq.symm

theorem decide_toNat_ne_zero (a : Word) : decide (a.toNat ≠ 0) = decide (a ≠ 0) :=
  decide_eq_decide.2 (not_congr (BitVec.toNat_inj (y := 0)))

theorem aluShl_res (a b : Word) : (aluShl a b).res = a <<< shiftCount b := by
  simp only [aluShl]
  split_ifs with hn
  · rw [← BitVec.toNat_inj, BitVec.toNat_shiftLeft, Nat.shiftLeft_eq, BitVec.toNat_ofNat]
  · exact (BitVec.shiftLeft_eq_zero (by omega)).symm

theorem aluShl_res_getLsbD (a b : Word) {k : Nat} (hk : k < 16) :
    (aluShl a b).res.getLsbD k = (decide (shiftCount b ≤ k) && a.getLsbD (k - shiftCount b)) := by
  have hbelow : (!decide (k < shiftCount b)) = decide (shiftCount b ≤ k) := Bool.eq_iff_iff.2 (by simp)
  rw [aluShl_res, BitVec.getLsbD_shiftLeft, decide_eq_true hk, Bool.true_and, hbelow]

theorem aluShl_z (a b : Word) : (aluShl a b).z = decide ((aluShl a b).res = 0) := zeroFlag_toNat _

theorem aluShl_cy (a b : Word) :
    (aluShl a b).cy = if shiftCount b = 0 then false else
      if shiftCount b < 16 then a.getLsbD (16 - shiftCount b) else decide (a ≠ 0) := by
  simp only [aluShl, decide_div_two_pow_mod_two, decide_toNat_ne_zero]

theorem aluShr_res (a b : Word) : (aluShr a b).res = a >>> shiftCount b := by
  simp only [aluShr]
  split_ifs with hn
  · rw [← Nat.shiftRight_eq_div_pow, ← BitVec.toNat_ushiftRight, BitVec.ofNat_toNat, BitVec.setWidth_eq]
  · exact (BitVec.ushiftRight_eq_zero (by omega)).symm

theorem aluShr_res_getLsbD (a b : Word) (k : Nat) : (aluShr a b).res.getLsbD k = a.getLsbD (k + shiftCount b) := by
  rw [aluShr_res, BitVec.getLsbD_ushiftRight, Nat.add_comm]

theorem aluShr_z (a b : Word) : (aluShr a b).z = decide ((aluShr a b).res = 0) := zeroFlag_toNat _

theorem aluShr_cy (a b : Word) :
    (aluShr a b).cy = if shiftCount b = 0 then false else
      if shiftCount b < 16 then a.getLsbD (shiftCount b - 1) else decide (a ≠ 0) := by
  simp only [aluShr, decide_div_two_pow_mod_two, decide_toNat_ne_zero]

/-! ### The end of an ALU instruction -/

/-- Two frames in a row write the registers of both. -/
theorem onlyRegsAndFlags_trans {s u t : State} {W W' : List Reg} (hsu : onlyRegsAndFlags s u W)
    (hut : onlyRegsAndFlags u t W') : onlyRegsAndFlags s t (W ++ W') := by
  obtain ⟨hreg, hsp, hmem, hparams, hctx, hinputs, hcalls⟩ := hsu
  obtain ⟨hreg', hsp', hmem', hparams', hctx', hinputs', hcalls'⟩ := hut
  refine ⟨fun r hr => ?_, hsp'.trans hsp, fun addr => (hmem' addr).trans (hmem addr), hparams'.trans hparams,
    hctx'.trans hctx, hinputs'.trans hinputs, hcalls'.trans hcalls⟩
  obtain ⟨hrW, hrW'⟩ : r ∉ W ∧ r ∉ W' := by simpa using hr
  exact (hreg' r hrW').trans (hreg r hrW)

/-- The end of the comparisons: the flags of the ALU result, and no register written (R142, R152). -/
theorem State.aluFlags_next (s : State) (r : AluOut) (len cycles : Nat) :
    ∃ t, s.aluFlags r len cycles = .next t ∧ (∀ q, t.reg q = s.reg q) ∧ t.z = r.z ∧ t.cy = r.cy ∧
      t.pc = (s.pc + len) % s.size ∧ succeeded s t cycles ∧ onlyRegsAndFlags s t [] := by
  obtain ⟨t, ht, hreg, hpc, hok, hframe, hz, hcy⟩ := (s.setFlags r.z r.cy).advance_ok_next len cycles
  have hregs (q : Reg) : t.reg q = s.reg q := (hreg q).trans (s.setFlags_reg r.z r.cy q)
  exact ⟨t, ht, hregs, hz, hcy, hpc, hok, fun q _ => hregs q, hframe.2⟩

/-- The end of the other ALU instructions: besides the flags, the result in the destination (R130). -/
theorem State.aluWrite_next (s : State) (dst : Reg) (r : AluOut) (len cycles : Nat) :
    ∃ t, s.aluWrite dst r len cycles = .next t ∧ t.reg dst = r.res ∧ t.z = r.z ∧ t.cy = r.cy ∧
      t.pc = (s.pc + len) % s.size ∧ succeeded s t cycles ∧ onlyRegsAndFlags s t [dst] := by
  obtain ⟨t, ht, hreg, hz, hcy, hpc, hok, hframe⟩ := (s.setReg dst r.res).aluFlags_next r len cycles
  have ⟨hwritten, _⟩ := onlyRegs_setReg s dst r.res
  refine ⟨t, ht, ?_, hz, hcy, by simpa using hpc, by simpa [succeeded] using hok, onlyRegsAndFlags_trans hwritten hframe⟩
  rw [hreg, State.reg_setReg, if_pos rfl]

/-! ### INC and DEC -/

/-- The four increments are one operation, each with an opcode and a register of its own (R132 to R135). -/
theorem encode_exec_of_mem_incRows {i : Instr} {op : Byte} {r : Reg} (h : (i, op, r) ∈ incRows) (p : AbsAddrAt)
    (s : State) : encode p i = [op] ∧ exec i s = s.aluWrite r (aluAdd (s.reg r) 1) 1 1 := by
  simp only [incRows, List.mem_cons, List.not_mem_nil, or_false, Prod.mk.injEq] at h
  rcases h with ⟨rfl, rfl, rfl⟩ | ⟨rfl, rfl, rfl⟩ | ⟨rfl, rfl, rfl⟩ | ⟨rfl, rfl, rfl⟩ <;> exact ⟨rfl, rfl⟩

/-- The four decrements are one operation, each with an opcode and a register of its own (R136 to R139). -/
theorem encode_exec_of_mem_decRows {i : Instr} {op : Byte} {r : Reg} (h : (i, op, r) ∈ decRows) (p : AbsAddrAt)
    (s : State) : encode p i = [op] ∧ exec i s = s.aluWrite r (aluSub (s.reg r) 1) 1 1 := by
  simp only [decRows, List.mem_cons, List.not_mem_nil, or_false, Prod.mk.injEq] at h
  rcases h with ⟨rfl, rfl, rfl⟩ | ⟨rfl, rfl, rfl⟩ | ⟨rfl, rfl, rfl⟩ | ⟨rfl, rfl, rfl⟩ <;> exact ⟨rfl, rfl⟩

/-- Settles O23: an increment adds the word 1 and a decrement subtracts it. -/
theorem incrementAndDecrement : Obligations.IncrementAndDecrement := by
  intro p s r
  refine ⟨fun i op hrow => ?_, fun i op hrow => ?_⟩
  · obtain ⟨henc, hexec⟩ := encode_exec_of_mem_incRows hrow p s
    obtain ⟨t, ht, hres, hz, hcy, hend⟩ := s.aluWrite_next r (aluAdd (s.reg r) 1) 1 1
    exact ⟨henc, t, hexec.trans ht, hres ▸ aluAdd_res_toNat _ _, hz.trans (aluAdd_z _ _), hcy, hend⟩
  · obtain ⟨henc, hexec⟩ := encode_exec_of_mem_decRows hrow p s
    obtain ⟨t, ht, hres, hz, hcy, hend⟩ := s.aluWrite_next r (aluSub (s.reg r) 1) 1 1
    have hone : decide (s.reg r = 1) = decide ((s.reg r).toNat = 1) :=
      decide_eq_decide.2 (BitVec.toNat_inj (y := 1)).symm
    exact ⟨henc, t, hexec.trans ht, hres ▸ aluSub_res_toNat _ _, hz.trans ((aluSub_z _ _).trans hone), hcy, hend⟩

/-! ### ADD, SUB and CMP -/

/-- The two additions are one operation on two addends (R140, R147). -/
theorem encode_exec_of_mem_addRows {imm v : Word} {i : Instr} {bytes : List Byte} {len cycles : Nat} {s : State}
    (h : (i, bytes, v, len, cycles) ∈ addRows s imm) (p : AbsAddrAt) :
    encode p i = bytes ∧ exec i s = s.aluWrite .a (aluAdd s.a v) len cycles := by
  simp only [addRows, List.mem_cons, List.not_mem_nil, or_false, Prod.mk.injEq] at h
  rcases h with ⟨rfl, rfl, rfl, rfl, rfl⟩ | ⟨rfl, rfl, rfl, rfl, rfl⟩ <;> exact ⟨rfl, rfl⟩

/-- Settles O24: both additions end with the sum of A and the addend. -/
theorem additionSetsCarryFromTheTrueSum : Obligations.AdditionSetsCarryFromTheTrueSum := by
  intro p s imm i bytes v len cycles hrow
  obtain ⟨henc, hexec⟩ := encode_exec_of_mem_addRows hrow p
  obtain ⟨t, ht, hres, hz, hcy, hend⟩ := s.aluWrite_next .a (aluAdd s.a v) len cycles
  have ha : t.a = (aluAdd s.a v).res := hres
  exact ⟨henc, t, hexec.trans ht, ha ▸ aluAdd_res_toNat _ _, hz.trans (aluAdd_z _ _), hcy, hend⟩

/-- The subtractions and the comparisons are one subtraction, whose result the comparisons drop (R141, R142, R148,
R152). -/
theorem encode_exec_of_mem_subRows {imm v : Word} {i : Instr} {bytes : List Byte} {len cycles : Nat} {writes : Bool}
    {s : State} (h : (i, bytes, v, len, cycles, writes) ∈ subRows s imm) (p : AbsAddrAt) :
    encode p i = bytes ∧ exec i s =
      if writes then s.aluWrite .a (aluSub s.a v) len cycles else s.aluFlags (aluSub s.a v) len cycles := by
  simp only [subRows, List.mem_cons, List.not_mem_nil, or_false, Prod.mk.injEq] at h
  rcases h with ⟨rfl, rfl, rfl, rfl, rfl, rfl⟩ | ⟨rfl, rfl, rfl, rfl, rfl, rfl⟩ | ⟨rfl, rfl, rfl, rfl, rfl, rfl⟩ |
    ⟨rfl, rfl, rfl, rfl, rfl, rfl⟩ <;> exact ⟨rfl, rfl⟩

/-- Settles O25: the four forms end with the flags of one subtraction, and only SUB with its result. -/
theorem subtractionAndComparisonSetBorrow : Obligations.SubtractionAndComparisonSetBorrow := by
  intro p s imm i bytes v len cycles writes hrow
  obtain ⟨henc, hexec⟩ := encode_exec_of_mem_subRows hrow p
  refine ⟨henc, ?_⟩
  cases writes with
  | true =>
    obtain ⟨t, ht, hres, hz, hcy, hend⟩ := s.aluWrite_next .a (aluSub s.a v) len cycles
    have ha : t.a = (aluSub s.a v).res := hres
    exact ⟨t, hexec.trans ht, ha ▸ aluSub_res_toNat _ _, hz.trans (aluSub_z _ _), hcy, hend⟩
  | false =>
    obtain ⟨t, ht, hreg, hz, hcy, hpc, hok, -, hframe⟩ := s.aluFlags_next (aluSub s.a v) len cycles
    exact ⟨t, hexec.trans ht, hreg .a, hz.trans (aluSub_z _ _), hcy, hpc, hok, fun q _ => hreg q, hframe⟩

/-! ### AND, OR, XOR and NOT -/

/-- The logic operations end alike, each with the word that holds its operation on the operands bit by bit (R143 to R146,
R149 to R151). NOT alone needs the bound on the bit, since past bit 15 its operand reads as 0 and so does its result. -/
theorem encode_exec_of_mem_logicRows {imm v : Word} {i : Instr} {bytes : List Byte} {f : Bool → Bool → Bool}
    {len cycles : Nat} {s : State} (h : (i, bytes, f, v, len, cycles) ∈ logicRows s imm) (p : AbsAddrAt) :
    encode p i = bytes ∧ ∃ res : Word, exec i s = s.aluWrite .a (aluLogic res) len cycles ∧
      ∀ k < 16, res.getLsbD k = f (s.a.getLsbD k) (v.getLsbD k) := by
  simp only [logicRows, List.mem_cons, List.not_mem_nil, or_false, Prod.mk.injEq] at h
  rcases h with ⟨rfl, rfl, rfl, rfl, rfl, rfl⟩ | ⟨rfl, rfl, rfl, rfl, rfl, rfl⟩ | ⟨rfl, rfl, rfl, rfl, rfl, rfl⟩ |
    ⟨rfl, rfl, rfl, rfl, rfl, rfl⟩ | ⟨rfl, rfl, rfl, rfl, rfl, rfl⟩ | ⟨rfl, rfl, rfl, rfl, rfl, rfl⟩ |
    ⟨rfl, rfl, rfl, rfl, rfl, rfl⟩
  · exact ⟨rfl, _, rfl, fun k _ => BitVec.getLsbD_and⟩
  · exact ⟨rfl, _, rfl, fun k _ => BitVec.getLsbD_or⟩
  · exact ⟨rfl, _, rfl, fun k _ => BitVec.getLsbD_xor⟩
  · refine ⟨rfl, _, rfl, fun k hk => ?_⟩
    rw [BitVec.getLsbD_not, decide_eq_true hk, Bool.true_and]
  · exact ⟨rfl, _, rfl, fun k _ => BitVec.getLsbD_and⟩
  · exact ⟨rfl, _, rfl, fun k _ => BitVec.getLsbD_or⟩
  · exact ⟨rfl, _, rfl, fun k _ => BitVec.getLsbD_xor⟩

/-- Settles O26: `Z` and the bits of A are those of the row's word. -/
theorem logicWorksBitwiseAndClearsCarry : Obligations.LogicWorksBitwiseAndClearsCarry := by
  intro p s imm i bytes f v len cycles hrow
  obtain ⟨henc, res, hexec, hbits⟩ := encode_exec_of_mem_logicRows hrow p
  obtain ⟨t, ht, hres, hz, hcy, hend⟩ := s.aluWrite_next .a (aluLogic res) len cycles
  have ha : t.a = res := hres
  exact ⟨henc, t, hexec.trans ht, ha ▸ hbits, ha ▸ hz.trans (zeroFlag_toNat res), hcy, hend⟩

/-! ### MUL_AB and DIV_AB -/

/-- Settles O27: MUL_AB ends with the low word of the product. -/
theorem multiplicationKeepsTheLowWord : Obligations.MultiplicationKeepsTheLowWord := by
  intro p s
  obtain ⟨t, ht, hres, hz, hcy, hend⟩ := s.aluWrite_next .a (aluMul s.a s.b) 5 1
  have ha : t.a = (aluMul s.a s.b).res := hres
  exact ⟨rfl, t, ht, ha ▸ aluMul_res_toNat _ _, ha ▸ hz.trans (aluMul_z _ _), hcy, hend⟩

theorem execDivAB_of_eq_zero {s : State} (hb : s.b = 0) : exec .divAB s = s.fail .divisionByZero 1 :=
  (if_pos hb).trans (by rw [s.failCost_eq])

theorem execDivAB_of_ne_zero {s : State} (hb : s.b ≠ 0) :
    exec .divAB s = (s.setReg .b (divRemainder s.a s.b)).aluWrite .a (aluDiv s.a s.b) 5 1 :=
  if_neg hb

/-- DIV_AB writes the remainder first, then the quotient with the flags (R154). -/
theorem execDivAB_next {s : State} (hb : s.b ≠ 0) :
    ∃ t, exec .divAB s = .next t ∧ t.a = s.a / s.b ∧ t.b = s.a % s.b ∧ t.z = decide (t.a = 0) ∧ t.cy = false ∧
      t.pc = (s.pc + 5) % s.size ∧ succeeded s t 1 ∧ onlyRegsAndFlags s t [.a, .b] := by
  obtain ⟨t, ht, hres, hz, hcy, hpc, hok, hframe⟩ :=
    (s.setReg .b (divRemainder s.a s.b)).aluWrite_next .a (aluDiv s.a s.b) 5 1
  have ⟨hwritten, _⟩ := onlyRegs_setReg s .b (divRemainder s.a s.b)
  have ⟨hreg, hframe'⟩ := onlyRegsAndFlags_trans hwritten hframe
  have ⟨hkept, _⟩ := hframe
  have ha : t.a = (aluDiv s.a s.b).res := hres
  have hrem : t.b = divRemainder s.a s.b := hkept .b (by decide)
  exact ⟨t, (execDivAB_of_ne_zero hb).trans ht, ha.trans (aluDiv_res _ _), hrem.trans (divRemainder_eq _ _),
    ha ▸ hz.trans (aluDiv_z _ _), hcy, hpc, hok, fun q hq => hreg q (by simpa [and_comm] using hq), hframe'⟩

/-- Settles O28: Euclid's equation and bound for `B ≠ 0`, the failure for `B = 0`. -/
theorem divisionGivesQuotientAndRemainderOrFails : Obligations.DivisionGivesQuotientAndRemainderOrFails := by
  intro p h s
  refine ⟨rfl, ?_⟩
  split_ifs with hb
  · obtain ⟨hfail, hcalls, -⟩ := State.fail_next (s := s) (e := .divisionByZero) (c := 1) rfl
    exact ⟨_, execDivAB_of_eq_zero hb, hfail, hcalls, "", "", rfl⟩
  · obtain ⟨t, ht, ha, hrem, hend⟩ := execDivAB_next hb
    have hpos : 0 < s.b.toNat := Nat.pos_of_ne_zero fun h0 => hb (BitVec.toNat_inj.1 h0)
    refine ⟨t, ht, ?_, ?_, hend⟩
    · rw [ha, hrem, BitVec.toNat_udiv, BitVec.toNat_umod, Nat.div_add_mod']
    · rw [hrem, BitVec.toNat_umod]
      exact Nat.mod_lt _ hpos

/-! ### SHL and SHR -/

/-- Settles O29: SHL ends with A shifted up by the count. -/
theorem shiftLeftMovesBitsUp : Obligations.ShiftLeftMovesBitsUp := by
  rintro p s n rfl
  obtain ⟨t, ht, hres, hz, hcy, hend⟩ := s.aluWrite_next .a (aluShl s.a s.b) 5 1
  have ha : t.a = (aluShl s.a s.b).res := hres
  exact ⟨rfl, t, ht, fun k hk => ha ▸ aluShl_res_getLsbD _ _ hk, ha ▸ hz.trans (aluShl_z _ _),
    hcy.trans (aluShl_cy _ _), hend⟩

/-- Settles O30: SHR ends with A shifted down by the count. -/
theorem shiftRightMovesBitsDown : Obligations.ShiftRightMovesBitsDown := by
  rintro p s n rfl
  obtain ⟨t, ht, hres, hz, hcy, hend⟩ := s.aluWrite_next .a (aluShr s.a s.b) 5 1
  have ha : t.a = (aluShr s.a s.b).res := hres
  exact ⟨rfl, t, ht, fun k _ => ha ▸ aluShr_res_getLsbD _ _ k, ha ▸ hz.trans (aluShr_z _ _),
    hcy.trans (aluShr_cy _ _), hend⟩

end Sys2Proof.Machine
end

section
/-! PROOF. STACK (42_stack.md R180 to R188): what a push leaves of `sp` and memory, read by the new `sp`, what a pop
leaves, and from both the statements. -/

namespace Sys2Proof.Machine

/-! ### The pushes -/

/-- Each push has an opcode of its own and no operand bytes (R181 to R184). -/
theorem encode_of_mem_pushRows {i : Instr} {op : Byte} {r : Reg} (h : (i, op, r) ∈ pushRows) (p : AbsAddrAt) :
    encode p i = [op] := by
  simp only [pushRows, List.mem_cons, List.not_mem_nil, or_false, Prod.mk.injEq] at h
  rcases h with ⟨rfl, rfl, -⟩ | ⟨rfl, rfl, -⟩ | ⟨rfl, rfl, -⟩ | ⟨rfl, rfl, -⟩ <;> rfl

theorem State.push16_sp_coe (s : State) (v : Word) : ((s.push16 v).sp : Int) = ((s.sp : Int) - 2) % s.size :=
  s.wrap_coe _

/-- The word pushed lies at the new `sp`, in the terms of R47: its second address is reduced from the reduced `sp`. -/
theorem State.memRead8_push16_at_sp {s : State} (h : s.mem.wf = true) (v : Word) (x : Int) :
    (s.push16 v).memRead8 x =
      if x % s.size = (((s.push16 v).sp : Int) + 1) % s.size then hiByte v
      else if x % s.size = (s.push16 v).sp then loByte v else s.memRead8 x := by
  rw [State.memRead8_push16 h, State.push16_sp_coe, Int.emod_add_emod]
  simp only [State.wrap_eq_wrap]

/-- Settles O31: the word and the `sp` are those of `push16`, which the end of the step keeps. -/
theorem pushStoresTheRegisterBelowTheStack : Obligations.PushStoresTheRegisterBelowTheStack := by
  intro p s i op r hmem hrow
  obtain ⟨t, ht, hreg, hpc, hok, ⟨-, hsp, hread, henv⟩, hflags⟩ := (s.push16 (s.reg r)).advance_ok_next 1 2
  refine ⟨encode_of_mem_pushRows hrow p, t, (exec_of_mem_pushRows hrow s).trans ht, ?_, fun x => ?_, hpc, hok,
    fun q _ => (hreg q).trans (s.push16_reg _ q), hflags, henv⟩
  · rw [hsp, State.push16_sp_coe]
  · rw [hread, hsp, State.memRead8_push16_at_sp hmem]

/-! ### The pops -/

/-- Each pop has an opcode of its own and no operand bytes (R185 to R188). -/
theorem encode_of_mem_popRows {i : Instr} {op : Byte} {r : Reg} (h : (i, op, r) ∈ popRows) (p : AbsAddrAt) :
    encode p i = [op] := by
  simp only [popRows, List.mem_cons, List.not_mem_nil, or_false, Prod.mk.injEq] at h
  rcases h with ⟨rfl, rfl, -⟩ | ⟨rfl, rfl, -⟩ | ⟨rfl, rfl, -⟩ | ⟨rfl, rfl, -⟩ <;> rfl

theorem State.popWord_eq (s : State) : s.popWord = u16 (s.memRead8 s.sp) (s.memRead8 ((s.sp : Int) + 1)) := rfl

theorem State.popSp_sp_eq (s : State) : s.popSp.sp = (s.sp + 2) % s.size := s.wrap_natCast_add s.sp 2

/-- Settles O32: after `sp` has moved, a pop ends as every write of one register does. -/
theorem popLoadsTheWordAtTheStack : Obligations.PopLoadsTheWordAtTheStack := by
  intro p s i op r hrow
  obtain ⟨t, ht, hval, hpc, hok, ⟨hreg, hsp, hread, henv⟩, hflags⟩ :=
    s.popSp.setReg_advance_ok_next r s.popWord 1 2
  exact ⟨encode_of_mem_popRows hrow p, t, (exec_of_mem_popRows hrow s).trans ht, hval.trans s.popWord_eq,
    hsp.trans s.popSp_sp_eq, hpc, hok, fun q hq => (hreg q hq).trans (s.popSp_reg q), hflags,
    fun x => (hread x).trans (s.popSp_memRead8 x), henv⟩

end Sys2Proof.Machine
end

section
/-! PROOF. MEMORY (43_memory_access.md R190 to R211): the effective addresses, what a load or a store leaves at one, and
from these the statements. -/

namespace Sys2Proof

/-- The two-bit field is the place of its register in the order A, B, C, D (R65, R66). -/
theorem regOfField_eq_getD (b : Byte) : regOfField b = [Reg.a, .b, .c, .d].getD (b.toNat % 4) .a := by
  obtain h | h | h | h : b.toNat % 4 = 0 ∨ b.toNat % 4 = 1 ∨ b.toNat % 4 = 2 ∨ b.toNat % 4 = 3 := by omega
  all_goals rw [regOfField, h]; rfl

/-- An offset is read as two's complement (R13). -/
theorem toInt_eq_ite (off : Word) :
    off.toInt = if off.toNat < 0x8000 then (off.toNat : Int) else (off.toNat : Int) - 0x10000 := by
  rw [BitVec.toInt_eq_toNat_cond]
  exact ite_congr (propext (by omega)) (fun _ => rfl) fun _ => rfl

namespace Machine

/-! ### The effective addresses -/

theorem State.eaIndexed_of_pcrelPlusB {s : State} (h : s.params.indexedEA = .pcrelPlusB) (off : Word) :
    s.eaIndexed off = s.wrap ((s.pc : Int) + 3 + off.toInt + s.b.toNat) := by
  rw [State.eaIndexed, h]

theorem State.eaIndexed_of_bPlusOff {s : State} (h : s.params.indexedEA = .bPlusOff) (off : Word) :
    s.eaIndexed off = s.wrap ((s.b.toNat : Int) + off.toInt) := by
  rw [State.eaIndexed, h]

/-- The indexed address is reduced under both readings (R196). -/
theorem State.eaIndexed_lt (s : State) (off : Word) : s.eaIndexed off < s.size := by
  cases h : s.params.indexedEA with
  | pcrelPlusB => exact s.eaIndexed_of_pcrelPlusB h off ▸ s.wrap_lt _
  | bPlusOff => exact s.eaIndexed_of_bPlusOff h off ▸ s.wrap_lt _

/-- Settles O35: each mode is a `wrap`, and each form reads its operand at the bytes of its row's format. -/
theorem effectiveAddressesAreReducedModN : Obligations.EffectiveAddressesAreReducedModN := by
  intro s off addr r b1 b2 b3
  have habs (p : AbsAddrAt) : decodeIns .default p [0x80, b1, b2, b3] = some (.loadAbs (absAddr p [0x80, b1, b2, b3])) :=
    decodeIns_of_mem (k := .loadAbs) p (show (0x80, .loadAbs) ∈ defaultRows by decide)
  have hreg : decodeIns .default .byte1 [0x48, b1, b2] = some (.loadReg (regOfField b1)) :=
    decodeIns_of_mem (k := .loadReg) .byte1 (show (0x48, .loadReg) ∈ defaultRows by decide)
  exact ⟨toInt_eq_ite off, s.wrap_coe _, fun h => s.eaIndexed_of_pcrelPlusB h off ▸ s.wrap_coe _,
    fun h => s.eaIndexed_of_bPlusOff h off ▸ s.wrap_coe _, s.wrap_natCast _, s.wrap_natCast _, habs .byte1, habs .byte2,
    regOfField_eq_getD b1 ▸ hreg⟩

/-! ### The loads -/

/-- The eight loads are two operations, a word's and a byte's, each form with an opcode and an effective address of its
own (R192, R194, R197, R199, R202, R204, R207, R209). -/
theorem encode_exec_of_mem_loadRows {s : State} {off addr : Word} {r : Reg} {i : Instr} {bytes : List Byte} {ea : Nat}
    {word : Bool} (h : (i, bytes, ea, word) ∈ loadRows s off addr r) :
    encode .byte1 i = bytes ∧
      exec i s = if word then s.loadWord ea bytes.length else s.loadByte ea bytes.length := by
  simp only [loadRows, List.mem_cons, List.not_mem_nil, or_false, Prod.mk.injEq] at h
  rcases h with ⟨rfl, rfl, rfl, rfl⟩ | ⟨rfl, rfl, rfl, rfl⟩ | ⟨rfl, rfl, rfl, rfl⟩ | ⟨rfl, rfl, rfl, rfl⟩ |
    ⟨rfl, rfl, rfl, rfl⟩ | ⟨rfl, rfl, rfl, rfl⟩ | ⟨rfl, rfl, rfl, rfl⟩ | ⟨rfl, rfl, rfl, rfl⟩ <;> exact ⟨rfl, rfl⟩

/-- Settles O36: a load ends as every write of one register does, with the word or the byte as A's value. -/
theorem loadsReadTheEffectiveAddress : Obligations.LoadsReadTheEffectiveAddress := by
  intro s off addr r i bytes ea word hrow
  obtain ⟨henc, hexec⟩ := encode_exec_of_mem_loadRows hrow
  refine ⟨henc, ?_⟩
  cases word with
  | true =>
    obtain ⟨t, ht, ha, hend⟩ := s.setReg_advance_ok_next .a (s.memRead16 ea) bytes.length 2
    exact ⟨t, hexec.trans ht, ha, hend⟩
  | false =>
    obtain ⟨t, ht, ha, hend⟩ := s.setReg_advance_ok_next .a ((s.memRead8 ea).setWidth 16) bytes.length 2
    have hzext : t.a.toNat = (s.memRead8 ea).toNat :=
      (congrArg BitVec.toNat ha).trans (BitVec.toNat_setWidth_of_le (by decide))
    exact ⟨t, hexec.trans ht, hzext, hend⟩

/-! ### The stores -/

/-- The eight stores are two operations, a word's and a byte's, each form with an opcode and a reduced effective address
of its own (R193, R195, R198, R200, R203, R205, R208, R210). -/
theorem encode_exec_of_mem_storeRows {s : State} {off addr : Word} {r : Reg} {i : Instr} {bytes : List Byte} {ea : Nat}
    {word : Bool} (h : (i, bytes, ea, word) ∈ storeRows s off addr r) :
    encode .byte1 i = bytes ∧ ea < s.size ∧
      exec i s = if word then s.storeWord ea bytes.length else s.storeByte ea bytes.length := by
  simp only [storeRows, List.mem_cons, List.not_mem_nil, or_false, Prod.mk.injEq] at h
  rcases h with ⟨rfl, rfl, rfl, rfl⟩ | ⟨rfl, rfl, rfl, rfl⟩ | ⟨rfl, rfl, rfl, rfl⟩ | ⟨rfl, rfl, rfl, rfl⟩ |
    ⟨rfl, rfl, rfl, rfl⟩ | ⟨rfl, rfl, rfl, rfl⟩ | ⟨rfl, rfl, rfl, rfl⟩ | ⟨rfl, rfl, rfl, rfl⟩
  · exact ⟨rfl, s.wrap_lt _, rfl⟩
  · exact ⟨rfl, s.wrap_lt _, rfl⟩
  · exact ⟨rfl, s.eaIndexed_lt off, rfl⟩
  · exact ⟨rfl, s.eaIndexed_lt off, rfl⟩
  · exact ⟨rfl, s.wrap_lt _, rfl⟩
  · exact ⟨rfl, s.wrap_lt _, rfl⟩
  · exact ⟨rfl, s.wrap_lt _, rfl⟩
  · exact ⟨rfl, s.wrap_lt _, rfl⟩

/-- The end of the meanings that write memory alone. -/
theorem State.withMem_advance_ok_next (s : State) (m : Memory) (hm : m.below s.size = true) (n c : Nat) :
    ∃ t, ((s.withMem m hm).advance n).ok c = .next t ∧ memSame (s.withMem m hm) t ∧ t.pc = (s.pc + n) % s.size ∧
      succeeded s t c ∧ regsSameExcept s t [] ∧ flagsSame s t ∧ t.sp = s.sp ∧ envSame s t := by
  obtain ⟨t, ht, hreg, hpc, hok, ⟨-, hsp, hread, henv⟩, hflags⟩ := (s.withMem m hm).advance_ok_next n c
  exact ⟨t, ht, hread, hpc, hok, fun q _ => (hreg q).trans (by cases q <;> rfl), hflags, hsp, henv⟩

/-- An access at `x` meets a reduced address exactly when `x` reduces to it (R41). -/
theorem State.wrap_eq_wrap_of_lt {s : State} {ea : Nat} (hea : ea < s.size) (x : Int) :
    s.wrap x = s.wrap ea ↔ x % s.size = ea := by
  rw [s.wrap_of_lt hea, ← s.wrap_coe, Nat.cast_inj]

/-- What a byte read gives after a word stored at a reduced address: its high byte, written last, wins (R42 to R44). -/
theorem State.memRead8_memWrite16_of_lt {s : State} (h : s.mem.wf = true) {ea : Nat} (hea : ea < s.size) (v : Word)
    (x : Int) :
    (s.memWrite16 ea v).memRead8 x =
      if x % s.size = ((ea : Int) + 1) % s.size then hiByte v else if x % s.size = ea then loByte v
      else s.memRead8 x := by
  simp only [State.memRead8_memWrite16 h, State.wrap_eq_wrap_of_lt hea, State.wrap_eq_wrap]

theorem State.memRead8_memWrite8_of_lt {s : State} (h : s.mem.wf = true) {ea : Nat} (hea : ea < s.size) (b : Byte)
    (x : Int) : (s.memWrite8 ea b).memRead8 x = if x % s.size = ea then b else s.memRead8 x := by
  simp only [State.memRead8_memWrite8 h, State.wrap_eq_wrap_of_lt hea]

/-- Settles O37: a store ends as every write of memory alone does, with what `memWrite16` or `memWrite8` left there. -/
theorem storesWriteTheEffectiveAddress : Obligations.StoresWriteTheEffectiveAddress := by
  intro s off addr r i bytes ea word hmem hrow
  obtain ⟨henc, hea, hexec⟩ := encode_exec_of_mem_storeRows hrow
  refine ⟨henc, ?_⟩
  cases word with
  | true =>
    have hbelow := (s.memWrite16 ea s.a).memInRange
    obtain ⟨t, ht, hread, hend⟩ := s.withMem_advance_ok_next (s.memWrite16 ea s.a).mem hbelow bytes.length 2
    refine ⟨t, hexec.trans ht, fun x => ?_, hend⟩
    simpa only [true_and] using (hread x).trans (State.memRead8_memWrite16_of_lt hmem hea s.a x)
  | false =>
    have hbelow := (s.memWrite8 ea (loByte s.a)).memInRange
    obtain ⟨t, ht, hread, hend⟩ := s.withMem_advance_ok_next (s.memWrite8 ea (loByte s.a)).mem hbelow bytes.length 2
    refine ⟨t, hexec.trans ht, fun x => ?_, hend⟩
    simpa only [Bool.false_eq_true, false_and, if_false] using
      (hread x).trans (State.memRead8_memWrite8_of_lt hmem hea (loByte s.a) x)

end Machine

end Sys2Proof
end

section
/-! PROOF. JUMP (44_jump.md R220 to R238): how a taken jump ends, which jump or call each row is, what a comparison makes
of the conditions, and the return from a call. -/

namespace Sys2Proof.Machine

/-! ### The unconditional jumps -/

/-- The end of a taken jump, whose target is reduced before the jump and again by it (R24, R220). -/
theorem State.jumpTo_wrap_next (s : State) (x : Int) :
    ∃ t, s.jumpTo (s.wrap x) = .next t ∧ (t.pc : Int) = x % s.size ∧ succeeded s t 3 ∧ onlyRegs s t [] := by
  have hpc : ((s.wrap (s.wrap x : Nat) : Nat) : Int) = x % s.size := by rw [State.wrap_wrap, State.wrap_coe]
  exact ⟨_, rfl, hpc, ⟨rfl, rfl, rfl⟩,
    ⟨fun r _ => s.setPc_reg _ r, rfl, s.setPc_memRead8 _, rfl, rfl, rfl, rfl⟩, rfl, rfl⟩

/-- The three unconditional jumps are one operation, each with bytes and a target of its own (R221, R234, R235). -/
theorem encode_exec_of_mem_jumpRows {s : State} {off addr : Word} {i : Instr} {bytes : List Byte} {target : Int}
    (h : (i, bytes, target) ∈ jumpRows s off addr) :
    encode .byte1 i = bytes ∧ exec i s = s.jumpTo (s.wrap target) := by
  simp only [jumpRows, List.mem_cons, List.not_mem_nil, or_false, Prod.mk.injEq] at h
  rcases h with ⟨rfl, rfl, rfl⟩ | ⟨rfl, rfl, rfl⟩ | ⟨rfl, rfl, rfl⟩ <;> exact ⟨rfl, rfl⟩

/-- Settles O38: each row ends as a taken jump does. -/
theorem unconditionalJumpsSetPc : Obligations.UnconditionalJumpsSetPc := by
  intro s off addr i bytes target hrow
  obtain ⟨henc, hexec⟩ := encode_exec_of_mem_jumpRows hrow
  exact ⟨henc, hexec ▸ s.jumpTo_wrap_next target⟩

/-! ### The conditional jumps -/

/-- The ten conditional jumps are one operation, each with an opcode and a condition of its own (R222 to R232). -/
theorem encode_exec_of_mem_conditionalRows {s : State} {off : Word} {i : Instr} {op : Byte} {taken : Bool}
    (h : (i, op, taken) ∈ conditionalRows s off) (p : AbsAddrAt) :
    encode p i = [op, loByte off, hiByte off] ∧ exec i s = s.jumpIf taken off := by
  simp only [conditionalRows, List.mem_cons, List.not_mem_nil, or_false, Prod.mk.injEq] at h
  rcases h with ⟨rfl, rfl, rfl⟩ | ⟨rfl, rfl, rfl⟩ | ⟨rfl, rfl, rfl⟩ | ⟨rfl, rfl, rfl⟩ | ⟨rfl, rfl, rfl⟩ |
    ⟨rfl, rfl, rfl⟩ | ⟨rfl, rfl, rfl⟩ | ⟨rfl, rfl, rfl⟩ | ⟨rfl, rfl, rfl⟩ | ⟨rfl, rfl, rfl⟩ <;> exact ⟨rfl, rfl⟩

/-- Settles O39: a condition that holds ends the step as a taken jump does, one that does not as every other success. -/
theorem conditionalJumpsFollowTheFlags : Obligations.ConditionalJumpsFollowTheFlags := by
  intro p s off i op taken hrow
  obtain ⟨henc, hexec⟩ := encode_exec_of_mem_conditionalRows hrow p
  refine ⟨henc, ?_⟩
  cases taken with
  | true =>
    obtain ⟨t, ht, hpc, hok, hframe⟩ := s.jumpTo_wrap_next ((s.pc : Int) + 3 + off.toInt)
    exact ⟨t, hexec.trans ht, hframe, hpc, hok⟩
  | false =>
    obtain ⟨t, ht, -, hpc, hok, hframe⟩ := s.advance_ok_next 3 1
    exact ⟨t, hexec.trans ht, hframe, hpc, hok⟩

/-! ### Comparisons -/

/-- The two comparisons are one subtraction whose flags alone are kept, each with a length and a cost of its own (R142,
R152). -/
theorem exec_of_mem_compareRows {s : State} {v : Word} {cmp : Instr} (h : (cmp, v) ∈ compareRows s v) :
    ∃ len cycles, exec cmp s = s.aluFlags (aluSub s.a v) len cycles := by
  simp only [compareRows, List.mem_cons, List.not_mem_nil, or_false, Prod.mk.injEq] at h
  rcases h with ⟨rfl, rfl⟩ | ⟨rfl, -⟩
  · exact ⟨1, 1, rfl⟩
  · exact ⟨3, 2, rfl⟩

/-- A comparison leaves `Z` for equality, `Cy` for the unsigned order and `N` as before (R142, R152). -/
theorem exec_next_of_mem_compareRows {s : State} {v : Word} {cmp : Instr} (h : (cmp, v) ∈ compareRows s v) :
    ∃ t, exec cmp s = .next t ∧ t.z = decide (s.a = v) ∧ t.cy = decide (s.a.toNat < v.toNat) ∧
      t.size = s.size := by
  obtain ⟨len, cycles, hexec⟩ := exec_of_mem_compareRows h
  obtain ⟨t, ht, -, hz, hcy, -, -, ⟨-, -, -, hparams, -⟩⟩ := s.aluFlags_next (aluSub s.a v) len cycles
  exact ⟨t, hexec.trans ht, hz.trans (aluSub_z s.a v), hcy.trans (aluSub_cy s.a v), State.size_congr hparams⟩

/-- Under the flags of a comparison, the condition of each comparison conditional is its relation in R226's table. -/
theorem exists_mem_conditionalRows_of_mem_relationRows {s t : State} {v off : Word} {i : Instr} {holds : Prop}
    (hz : t.z = decide (s.a = v)) (hcy : t.cy = decide (s.a.toNat < v.toNat)) (h : (i, holds) ∈ relationRows s off v) :
    ∃ op taken, (i, op, taken) ∈ conditionalRows t off ∧ (taken = true ↔ holds) := by
  have hgt : (!t.cy && !t.z) = true ↔ s.a.toNat > v.toNat := by
    simp only [hz, hcy, Bool.and_eq_true, Bool.not_eq_true', decide_eq_false_iff_not, ← BitVec.toNat_inj]
    omega
  have hge : (!t.cy || t.z) = true ↔ s.a.toNat ≥ v.toNat := by
    simp only [hz, hcy, Bool.or_eq_true, Bool.not_eq_true', decide_eq_false_iff_not, decide_eq_true_eq,
      ← BitVec.toNat_inj]
    omega
  have hlt : (t.cy && !t.z) = true ↔ s.a.toNat < v.toNat := by
    simp only [hz, hcy, Bool.and_eq_true, Bool.not_eq_true', decide_eq_false_iff_not, decide_eq_true_eq,
      ← BitVec.toNat_inj]
    omega
  have hle : (t.cy || t.z) = true ↔ s.a.toNat ≤ v.toNat := by
    simp only [hz, hcy, Bool.or_eq_true, decide_eq_true_eq, ← BitVec.toNat_inj]
    omega
  simp only [relationRows, List.mem_cons, List.not_mem_nil, or_false, Prod.mk.injEq] at h
  rcases h with ⟨rfl, rfl⟩ | ⟨rfl, rfl⟩ | ⟨rfl, rfl⟩ | ⟨rfl, rfl⟩ | ⟨rfl, rfl⟩ | ⟨rfl, rfl⟩
  · exact ⟨0x65, _, by simp [conditionalRows], hgt⟩
  · exact ⟨0x66, _, by simp [conditionalRows], hge⟩
  · exact ⟨0x67, _, by simp [conditionalRows], hlt⟩
  · exact ⟨0x68, _, by simp [conditionalRows], hle⟩
  · exact ⟨0x69, _, by simp [conditionalRows], hlt⟩
  · exact ⟨0x6A, _, by simp [conditionalRows], hge⟩

/-- Settles O40: O39 at the flags the comparison left. -/
theorem comparisonThenConditionalIsUnsigned : Obligations.ComparisonThenConditionalIsUnsigned := by
  intro s v off cmp i holds hcmp hrel
  obtain ⟨t, ht, hz, hcy, hsize⟩ := exec_next_of_mem_compareRows hcmp
  obtain ⟨op, taken, hrow, htaken⟩ := exists_mem_conditionalRows_of_mem_relationRows hz hcy hrel
  obtain ⟨-, u, hu, -, hend⟩ := conditionalJumpsFollowTheFlags .byte1 t off i op taken hrow
  rw [hsize] at hend
  refine ⟨t, u, ht, hu, fun hholds => ?_, fun hnot => ?_⟩
  · rw [if_pos (htaken.2 hholds)] at hend
    obtain ⟨hpc, hresult, -⟩ := hend
    exact ⟨hpc, hresult⟩
  · rw [if_neg (mt htaken.1 hnot)] at hend
    obtain ⟨hpc, hresult, -⟩ := hend
    exact ⟨hpc, hresult⟩

/-! ### The calls -/

/-- A word holds a return address whole, since no memory has more than 65536 bytes (R7, R233). -/
theorem State.returnAddress_toNat (s : State) (len : Nat) : (s.returnAddress len).toNat = (s.pc + len) % s.size := by
  have hlt := s.wrap_lt ((s.pc : Int) + len)
  have hsize := s.size_le
  rw [State.returnAddress, BitVec.toNat_ofNat, Nat.mod_eq_of_lt (by omega), State.wrap_natCast_add]

/-- The two calls are one operation, each with bytes, and so a length, and a target of its own (R233, R236). -/
theorem encode_exec_of_mem_callRows {s : State} {off addr : Word} {i : Instr} {bytes : List Byte} {target : Int}
    (h : (i, bytes, target) ∈ callRows s off addr) :
    encode .byte1 i = bytes ∧ exec i s = s.callTo (s.wrap target) bytes.length := by
  simp only [callRows, List.mem_cons, List.not_mem_nil, or_false, Prod.mk.injEq] at h
  rcases h with ⟨rfl, rfl, rfl⟩ | ⟨rfl, rfl, rfl⟩ <;> exact ⟨rfl, rfl⟩

/-- A call is a push and then a jump to a target that stands before the push (R55, R233). -/
theorem State.callTo_wrap_next (s : State) (x : Int) (len : Nat) :
    ∃ t, s.callTo (s.wrap x) len = .next t ∧ (t.pc : Int) = x % s.size ∧ succeeded s t 3 ∧
      onlyRegs (s.push16 (s.returnAddress len)) t [] :=
  (s.push16 (s.returnAddress len)).jumpTo_wrap_next x

/-- Settles O41: `sp` and memory are those of the push, which the jump keeps. -/
theorem callsPushTheReturnAddress : Obligations.CallsPushTheReturnAddress := by
  intro s off addr i bytes target back hmem hrow hback
  obtain ⟨henc, hexec⟩ := encode_exec_of_mem_callRows hrow
  have hret : s.returnAddress bytes.length = back := BitVec.eq_of_toNat_eq ((s.returnAddress_toNat _).trans hback.symm)
  obtain ⟨t, ht, hpc, hok, ⟨hreg, hsp, hread, henv⟩, hflags⟩ := s.callTo_wrap_next target bytes.length
  rw [hret] at hreg hsp hread
  refine ⟨henc, t, hexec.trans ht, hpc, ?_, fun x => ?_, hok, fun q hq => (hreg q hq).trans (s.push16_reg back q),
    hflags, henv⟩
  · rw [hsp, State.push16_sp_coe]
  · rw [hread, hsp, State.memRead8_push16_at_sp hmem]

/-! ### The return from a call -/

/-- The word a pop returns depends on `sp` and on what memory reads alone (R48). -/
theorem State.popWord_congr {s t : State} (hsp : t.sp = s.sp) (hread : memSame s t) : t.popWord = s.popWord := by
  rw [State.popWord_eq, State.popWord_eq, hsp, hread, hread]

/-- Where a pop leaves `sp` depends on `sp` and on `N` alone (R48). -/
theorem State.popSp_sp_congr {s t : State} (hsp : t.sp = s.sp) (hsize : t.size = s.size) :
    t.popSp.sp = s.popSp.sp := by
  rw [State.popSp_sp_eq, State.popSp_sp_eq, hsp, hsize]

/-- Settles O42: POP_C takes back what the call pushed, an address below `N`, where RET then goes. -/
theorem popCThenRetReturnsFromCall : Obligations.PopCThenRetReturnsFromCall := by
  rintro s off ⟨-, -, hmem, -⟩ hN
  obtain ⟨t, ht, -, ⟨-, htused, -⟩, ⟨-, htsp, htread, htparams, -⟩, -⟩ :=
    s.callTo_wrap_next ((s.pc : Int) + 3 + off.toInt) 3
  obtain ⟨-, u, hu, huc, husp, -, ⟨-, huused, -⟩, -, -, -, huparams, -⟩ :=
    popLoadsTheWordAtTheStack .byte1 t .popC 0x26 .c (by decide)
  obtain ⟨-, v, hv, hvpc, ⟨-, hvused, -⟩, ⟨hvreg, hvsp, -⟩, -⟩ :=
    unconditionalJumpsSetPc u off off .ret [0x28] u.c.toNat (by simp [jumpRows])
  have htsize : t.size = s.size := State.size_congr htparams
  have husize : u.size = s.size := (State.size_congr huparams).trans htsize
  have hret : u.c = s.returnAddress 3 := by
    calc u.c = t.popWord := huc
      _ = (s.push16 (s.returnAddress 3)).popWord := State.popWord_congr htsp htread
      _ = s.returnAddress 3 := State.popWord_push16 hmem hN _
  have hsp : u.sp = s.sp := by
    calc u.sp = t.popSp.sp := husp.trans t.popSp_sp_eq.symm
      _ = (s.push16 (s.returnAddress 3)).popSp.sp := State.popSp_sp_congr htsp htsize
      _ = s.sp := s.popSp_push16_sp _
  have hc : u.c.toNat = (s.pc + 3) % s.size := hret ▸ s.returnAddress_toNat 3
  have hpc : v.pc = (s.pc + 3) % s.size := by
    rw [husize, hc] at hvpc
    have hmod : v.pc = (s.pc + 3) % s.size % s.size := by exact_mod_cast hvpc
    rw [hmod, Nat.mod_mod]
  have hvc : v.c = u.c := hvreg .c List.not_mem_nil
  refine ⟨t, u, v, ht, hu, hv, hpc, hvsp.trans hsp, ?_, by omega⟩
  rw [hvc, hc, hpc]

end Sys2Proof.Machine
end

section
/-! PROOF. UNIT (45_unit_io.md R250 to R255): the calls a step records, how each check of a target ends or goes on, and
from these the failures in their order, the read and the writes; and the messages of the failures (R302 to R305). -/

namespace Sys2Proof.Machine

/-! ### Calls recorded -/

/-- The external calls `ks` are made, in this order. -/
def State.callAll (s : State) (ks : List ExtCall) : State := { s with calls := s.calls ++ ks }

theorem State.call_eq_callAll (s : State) (k : ExtCall) : s.call k = s.callAll [k] := rfl

theorem State.callAll_call (s : State) (ks : List ExtCall) (k : ExtCall) :
    (s.callAll ks).call k = s.callAll (ks ++ [k]) := by
  simp [State.callAll, State.call]

@[simp] theorem State.callAll_a (s : State) (ks : List ExtCall) : (s.callAll ks).a = s.a := rfl

/-- A failure after some calls leaves them recorded, and else ends as any failure does (R301). -/
theorem State.callAll_fail_next (s : State) (ks : List ExtCall) (e : ErrorCode) (c : Nat) :
    ∃ t, (s.callAll ks).fail e c = .next t ∧ failedWith s t e c ∧ t.calls = s.calls ++ ks := by
  obtain ⟨hfail, hcalls, -⟩ := State.fail_next (s := s.callAll ks) (e := e) (c := c) rfl
  exact ⟨_, rfl, hfail, hcalls⟩

/-! ### The checks of a target (R250, R274) -/

section Checks

variable {s : State} {sel : Byte} {ctx : UnitContext} {u : UnitId}

theorem State.resolve_of_ctx_eq_none (hctx : s.ctx = none) (accept : UnitType → Bool) (cost : Nat)
    (k : State → UnitContext → UnitId → Result) :
    s.resolve sel accept cost k = s.fail .requiresUnitContext cost := by
  rw [State.resolve, hctx]

theorem State.resolve_of_lookup_eq_none (hctx : s.ctx = some ctx) (hlookup : ctx.lookup.get sel = .ok none)
    (accept : UnitType → Bool) (cost : Nat) (k : State → UnitContext → UnitId → Result) :
    s.resolve sel accept cost k = (s.callAll [.lookup sel]).fail (.unitNotFound sel) cost := by
  simp only [State.resolve, hctx, hlookup, State.call_eq_callAll]

theorem State.resolve_of_access_denied {accept : UnitType → Bool} (hctx : s.ctx = some ctx)
    (hlookup : ctx.lookup.get sel = .ok (some u)) (haccept : accept (ctx.units.get u).type = true)
    (haccess : (ctx.units.get u).canAccess = .ok false) (cost : Nat) (k : State → UnitContext → UnitId → Result) :
    s.resolve sel accept cost k =
      (s.callAll [.lookup sel, .canAccess ctx.self u]).fail (.accessDenied sel) cost := by
  simp only [State.resolve, hctx, hlookup, haccept, haccess, if_true, State.call_eq_callAll s, State.callAll_call,
    List.singleton_append]

theorem State.resolve_of_reaches {accept : UnitType → Bool} (hctx : s.ctx = some ctx) (hreach : reaches ctx sel u)
    (haccept : accept (ctx.units.get u).type = true) (cost : Nat) (k : State → UnitContext → UnitId → Result) :
    s.resolve sel accept cost k = k (s.callAll [.lookup sel, .canAccess ctx.self u]) ctx u := by
  obtain ⟨hlookup, haccess⟩ := hreach
  simp only [State.resolve, hctx, hlookup, haccept, haccess, if_true, State.call_eq_callAll s, State.callAll_call,
    List.singleton_append]

theorem State.openMemIf_of_none (hmemIf : (ctx.units.get u).memIf = .ok none) (cost : Nat)
    (k : State → MemInterface → Result) :
    s.openMemIf sel ctx u cost k = (s.call (.memIf u)).fail (.noMemoryInterface sel) cost := by
  rw [State.openMemIf, hmemIf]

theorem State.openMemIf_of_some {mi : MemInterface} (hmemIf : (ctx.units.get u).memIf = .ok (some mi)) (cost : Nat)
    (k : State → MemInterface → Result) : s.openMemIf sel ctx u cost k = k (s.call (.memIf u)) mi := by
  rw [State.openMemIf, hmemIf]

/-! ### What the UNIT instructions share -/

/-- All the checks of a UNIT instruction before its read or write (R250); `k` goes on with the unit and its
interface. -/
def State.unitAccess (s : State) (sel : Byte) (k : UnitId → State → MemInterface → Result) : Result :=
  s.resolve sel anyUnit s.unitFailCost fun s ctx u => s.openMemIf sel ctx u s.unitFailCost (k u)

/-- The UNIT instructions differ only in what they do with the interface they reach (R253 to R255). -/
theorem exec_eq_unitAccess {ua : Word} {i : Instr}
    (h : i ∈ ([.unitMemRead sel ua, .unitMemWrite sel ua, .unitMemWriteDyn sel] : List Instr)) (s : State) :
    ∃ k, exec i s = s.unitAccess sel k := by
  simp only [List.mem_cons, List.not_mem_nil, or_false] at h
  rcases h with rfl | rfl | rfl <;> exact ⟨_, rfl⟩

theorem State.unitAccess_of_no_interface (hctx : s.ctx = some ctx) (hreach : reaches ctx sel u)
    (hmemIf : (ctx.units.get u).memIf = .ok none) (k : UnitId → State → MemInterface → Result) :
    s.unitAccess sel k =
      (s.callAll [.lookup sel, .canAccess ctx.self u, .memIf u]).fail (.noMemoryInterface sel) s.unitFailCost := by
  rw [State.unitAccess, State.resolve_of_reaches hctx hreach rfl, State.openMemIf_of_none hmemIf, State.callAll_call]
  rfl

theorem State.unitAccess_of_interface {mi : MemInterface} (hctx : s.ctx = some ctx) (hreach : reaches ctx sel u)
    (hmemIf : (ctx.units.get u).memIf = .ok (some mi)) (k : UnitId → State → MemInterface → Result) :
    s.unitAccess sel k = k u (s.callAll [.lookup sel, .canAccess ctx.self u, .memIf u]) mi := by
  rw [State.unitAccess, State.resolve_of_reaches hctx hreach rfl, State.openMemIf_of_some hmemIf, State.callAll_call]
  rfl

/-! ### The read and the write -/

theorem State.unitRead_of_rejected {mi : MemInterface} {ua : Word} (hctx : s.ctx = some ctx)
    (hreach : reaches ctx sel u) (hmemIf : (ctx.units.get u).memIf = .ok (some mi))
    (hread : mi.read.get ua = .ok none) :
    s.unitRead sel ua = (s.callAll [.lookup sel, .canAccess ctx.self u, .memIf u, .readMemory u ua]).fail
      (.memoryReadRejected sel ua) s.unitFailCost := by
  refine (State.unitAccess_of_interface hctx hreach hmemIf _).trans ?_
  simp only [hread, State.callAll_call]
  rfl

theorem State.unitRead_of_answered {mi : MemInterface} {ua : Word} {v : Int} (hctx : s.ctx = some ctx)
    (hreach : reaches ctx sel u) (hmemIf : (ctx.units.get u).memIf = .ok (some mi))
    (hread : mi.read.get ua = .ok (some v)) :
    s.unitRead sel ua = (((s.callAll [.lookup sel, .canAccess ctx.self u, .memIf u, .readMemory u ua]).setReg .a
      ((BitVec.ofInt 8 v).setWidth 16)).advance 4).ok 3 := by
  refine (State.unitAccess_of_interface hctx hreach hmemIf _).trans ?_
  simp only [hread, State.callAll_call]
  rfl

theorem State.unitWrite_of_rejected {mi : MemInterface} {a : Word} (hctx : s.ctx = some ctx)
    (hreach : reaches ctx sel u) (hmemIf : (ctx.units.get u).memIf = .ok (some mi))
    (hwrite : mi.write.get (a, loByte s.a) = .ok false) :
    s.unitWrite sel a =
      (s.callAll [.lookup sel, .canAccess ctx.self u, .memIf u, .writeMemory u a (loByte s.a)]).fail
        (.memoryWriteRejected sel a) s.unitFailCost := by
  refine (State.unitAccess_of_interface hctx hreach hmemIf _).trans ?_
  simp only [State.callAll_a, hwrite, State.callAll_call]
  rfl

theorem State.unitWrite_of_accepted {mi : MemInterface} {a : Word} (hctx : s.ctx = some ctx)
    (hreach : reaches ctx sel u) (hmemIf : (ctx.units.get u).memIf = .ok (some mi))
    (hwrite : mi.write.get (a, loByte s.a) = .ok true) :
    s.unitWrite sel a =
      ((s.callAll [.lookup sel, .canAccess ctx.self u, .memIf u, .writeMemory u a (loByte s.a)]).advance 4).ok 3 := by
  refine (State.unitAccess_of_interface hctx hreach hmemIf _).trans ?_
  simp only [State.callAll_a, hwrite, State.callAll_call]
  rfl

end Checks

/-- The two writes are one operation, each with bytes and an address of its own (R254, R255). -/
theorem encode_exec_of_mem_unitWriteRows {s : State} {sel : Byte} {ua a : Word} {i : Instr} {bytes : List Byte}
    (h : (i, bytes, a) ∈ unitWriteRows s sel ua) (p : AbsAddrAt) :
    encode p i = bytes ∧ exec i s = s.unitWrite sel a := by
  simp only [unitWriteRows, List.mem_cons, List.not_mem_nil, or_false, Prod.mk.injEq] at h
  rcases h with ⟨rfl, rfl, rfl⟩ | ⟨rfl, rfl, rfl⟩ <;> exact ⟨rfl, rfl⟩

/-! ### The failures -/

/-- Settles O45: each check that fails ends the step there, after the calls up to it. -/
theorem unitFailuresComeInOrder : Obligations.UnitFailuresComeInOrder := by
  intro s sel ua a ctx u mi i cost hi hcost
  rw [← s.unitFailCost_eq] at hcost
  subst hcost
  obtain ⟨k, hexec⟩ := exec_eq_unitAccess hi s
  refine ⟨fun hctx => ?_, fun hctx hlookup => ?_, fun hctx hlookup haccess => ?_, fun hctx hreach hmemIf => ?_,
    fun hctx hreach hmemIf => ⟨fun hread => ?_, fun j bytes hrow hwrite => ?_⟩⟩
  · obtain ⟨hfail, hcalls, -⟩ := State.fail_next (s := s) (e := .requiresUnitContext) (c := s.unitFailCost) rfl
    exact ⟨_, hexec.trans (State.resolve_of_ctx_eq_none hctx _ _ _), hfail, hcalls⟩
  · rw [hexec, State.unitAccess, State.resolve_of_lookup_eq_none hctx hlookup]
    exact s.callAll_fail_next _ _ _
  · rw [hexec, State.unitAccess, State.resolve_of_access_denied hctx hlookup rfl haccess]
    exact s.callAll_fail_next _ _ _
  · rw [hexec, State.unitAccess_of_no_interface hctx hreach hmemIf]
    exact s.callAll_fail_next _ _ _
  · have hjexec : exec (.unitMemRead sel ua) s = s.unitRead sel ua := rfl
    rw [hjexec, State.unitRead_of_rejected hctx hreach hmemIf hread]
    exact s.callAll_fail_next _ _ _
  · obtain ⟨-, hjexec⟩ := encode_exec_of_mem_unitWriteRows hrow .byte1
    rw [hjexec, State.unitWrite_of_rejected hctx hreach hmemIf hwrite]
    exact s.callAll_fail_next _ _ _

/-! ### The successes -/

/-- The end of a UNIT instruction that succeeds after the calls `ks`, and its frame: the listed registers, `pc` and the
record of the calls are written, and nothing else (R252). -/
abbrev unitDone (s t : State) (ks : List ExtCall) (written : List Reg) : Prop :=
  t.pc = (s.pc + 4) % s.size ∧ succeeded s t 3 ∧ regsSameExcept s t written ∧ flagsSame s t ∧ t.sp = s.sp ∧
    t.mem = s.mem ∧ t.params = s.params ∧ t.ctx = s.ctx ∧ t.inputs = s.inputs ∧ t.calls = s.calls ++ ks

theorem State.callAll_advance_ok_next (s : State) (ks : List ExtCall) :
    ∃ t, ((s.callAll ks).advance 4).ok 3 = .next t ∧ unitDone s t ks [] :=
  ⟨_, rfl, s.wrap_natCast_add s.pc 4, ⟨rfl, rfl, rfl⟩, fun r _ => (s.callAll ks).advance_reg 4 r, ⟨rfl, rfl⟩, rfl, rfl,
    rfl, rfl, rfl, rfl⟩

theorem State.callAll_setReg_advance_ok_next (s : State) (ks : List ExtCall) (r : Reg) (v : Word) :
    ∃ t, (((s.callAll ks).setReg r v).advance 4).ok 3 = .next t ∧ t.reg r = v ∧ unitDone s t ks [r] := by
  obtain ⟨t, ht, hr, hpc, hok, ⟨hreg, hsp, -, hparams, hctx, hinputs, hcalls⟩, hflags⟩ :=
    (s.callAll ks).setReg_advance_ok_next r v 4 3
  have hmem : t.mem = ((s.callAll ks).setReg r v).mem := by
    cases ht
    rfl
  exact ⟨t, ht, hr, hpc, hok, hreg, hflags, hsp, hmem.trans (State.setReg_mem _ r v), hparams, hctx, hinputs, hcalls⟩

/-- The zero-extended byte is the answered value masked to 8 bits (R253). -/
theorem toNat_setWidth_ofInt (v : Int) : (((BitVec.ofInt 8 v).setWidth 16).toNat : Int) = v % 256 := by
  rw [BitVec.toNat_setWidth, BitVec.toNat_ofInt]
  omega

/-- Settles O43: an answered read ends with the byte in A. -/
theorem unitReadLoadsTheAnsweredByte : Obligations.UnitReadLoadsTheAnsweredByte := by
  intro p s sel ua ctx u mi v hctx hreach hmemIf hread
  obtain ⟨t, ht, ha, hpc, hdone⟩ := s.callAll_setReg_advance_ok_next
    [.lookup sel, .canAccess ctx.self u, .memIf u, .readMemory u ua] .a ((BitVec.ofInt 8 v).setWidth 16)
  have hA : t.a = (BitVec.ofInt 8 v).setWidth 16 := ha
  exact ⟨rfl, t, (State.unitRead_of_answered hctx hreach hmemIf hread).trans ht, hA ▸ toNat_setWidth_ofInt v, hpc,
    hdone⟩

/-- Settles O44: an accepted write ends with nothing written here but `pc`. -/
theorem unitWriteSendsTheLowByteOfA : Obligations.UnitWriteSendsTheLowByteOfA := by
  intro p s sel ua a ctx u mi i bytes hctx hreach hmemIf hrow hwrite
  obtain ⟨henc, hexec⟩ := encode_exec_of_mem_unitWriteRows hrow p
  rw [hexec, State.unitWrite_of_accepted hctx hreach hmemIf hwrite]
  exact ⟨henc, s.callAll_advance_ok_next _⟩

/-! ### The messages -/

/-- Settles O59: the texts are those of `ErrorCode.message`, the selector's two digits those of its case. -/
theorem failureMessagesCarryTheFixedTexts : Obligations.FailureMessagesCarryTheFixedTexts := by
  intro h sel digits e m hdigits
  refine ⟨rfl, ?_, rfl, rfl⟩
  rw [ErrorCode.message, hex2_eq_ofList_getD hdigits]

end Sys2Proof.Machine
end

section
/-! PROOF. SCAN and SCANM (46_special.md R270 to R272): both write a run of bytes in rising order, so what such a run
leaves of memory is said once, and the statements are read off from it. -/

namespace Sys2Proof.Machine

/-! ### A run of bytes written -/

/-- `n` bytes written from `dst` on in rising order, byte `k` being `f w k` of the state `w` just before its write. -/
def State.writeSeq (s : State) (dst : Int) (n : Nat) (f : State → Nat → Byte) : State :=
  (List.range n).foldl (fun (w : State) (k : Nat) => w.memWrite8 (dst + k) (f w k)) s

theorem State.writeSeq_zero (s : State) (dst : Int) (f : State → Nat → Byte) : s.writeSeq dst 0 f = s := rfl

/-- The last byte of a run is written after the others. -/
theorem State.writeSeq_succ (s : State) (dst : Int) (n : Nat) (f : State → Nat → Byte) :
    s.writeSeq dst (n + 1) f = (s.writeSeq dst n f).memWrite8 (dst + n) (f (s.writeSeq dst n f) n) := by
  simp [State.writeSeq, List.range_succ]

/-- The first byte of a run is written before the others, which are a run at the next address. -/
theorem State.writeSeq_succ_front (s : State) (dst : Int) (n : Nat) (f : State → Nat → Byte) :
    s.writeSeq dst (n + 1) f = (s.memWrite8 dst (f s 0)).writeSeq (dst + 1) n fun w k => f w (k + 1) := by
  simp [State.writeSeq, List.range_succ_eq_map, List.foldl_map, add_comm, add_left_comm]

/-- The bytes SCAN writes are a run (R271). -/
theorem State.memWriteBytes_eq_writeSeq (bs : List Byte) : ∀ (s : State) (dst : Int),
    s.memWriteBytes dst bs = s.writeSeq dst bs.length fun _ k => bs.getD k 0 := by
  induction bs with
  | nil => exact fun _ _ => rfl
  | cons b rest ih =>
    intro s dst
    rw [State.memWriteBytes, ih, List.length_cons, State.writeSeq_succ_front]
    rfl

/-- The bytes SCANM copies are a run, each read from the state just before its write (R272). -/
theorem State.memCopy_eq_writeSeq (n : Nat) : ∀ (s : State) (src dst : Int),
    s.memCopy src dst n = s.writeSeq dst n fun w k => w.memRead8 (src + k) := by
  induction n with
  | zero => exact fun _ _ _ => rfl
  | succ n ih =>
    intro s src dst
    rw [State.memCopy, ih, State.writeSeq_succ_front]
    simp only [Nat.cast_zero, add_zero, Nat.cast_succ, add_comm, add_left_comm]

/-- A run changes memory alone, and keeps it canonical. -/
theorem State.writeSeq_spec (s : State) (dst : Int) (n : Nat) (f : State → Nat → Byte) :
    ∃ m h, s.writeSeq dst n f = s.withMem m h ∧ (s.mem.wf = true → m.wf = true) := by
  induction n with
  | zero => exact ⟨s.mem, s.memInRange, rfl, id⟩
  | succ n ih =>
    obtain ⟨m, h, hm, hwf⟩ := ih
    rw [State.writeSeq_succ, hm]
    exact ⟨_, _, rfl, fun hs => State.memWrite8_wf (hwf hs) _ _⟩

theorem State.writeSeq_wf {s : State} (h : s.mem.wf = true) (dst : Int) (n : Nat) (f : State → Nat → Byte) :
    (s.writeSeq dst n f).mem.wf = true := by
  obtain ⟨m, hb, hm, hwf⟩ := s.writeSeq_spec dst n f
  rw [hm]
  exact hwf h

theorem State.writeSeq_wrap (s : State) (dst : Int) (n : Nat) (f : State → Nat → Byte) (x : Int) :
    (s.writeSeq dst n f).wrap x = s.wrap x := by
  obtain ⟨m, hb, hm, -⟩ := s.writeSeq_spec dst n f
  rw [hm, State.withMem_wrap]

/-- A call recorded before a run may be recorded after it, where the bytes do not depend on the calls. -/
theorem State.writeSeq_call {f : State → Nat → Byte} {c : ExtCall} (hf : ∀ w k, f (State.call w c) k = f w k)
    (s : State) (dst : Int) (n : Nat) : (s.call c).writeSeq dst n f = (s.writeSeq dst n f).call c := by
  induction n with
  | zero => rfl
  | succ n ih =>
    rw [State.writeSeq_succ, State.writeSeq_succ, ih, hf]
    rfl

/-! ### What is read after a run -/

/-- A byte read after one more write of a run: the byte written last at its own address. -/
theorem State.memRead8_writeSeq_succ {s : State} (h : s.mem.wf = true) (dst : Int) (n : Nat) (f : State → Nat → Byte)
    (x : Int) :
    (s.writeSeq dst (n + 1) f).memRead8 x =
      if x % s.size = (dst + n) % s.size then f (s.writeSeq dst n f) n else (s.writeSeq dst n f).memRead8 x := by
  rw [State.writeSeq_succ, State.memRead8_memWrite8 (State.writeSeq_wf h dst n f), State.writeSeq_wrap,
    State.writeSeq_wrap]
  simp only [State.wrap_eq_wrap]

/-- A byte outside a run is as before. -/
theorem State.memRead8_writeSeq_of_outside {s : State} (h : s.mem.wf = true) {dst x : Int} {n : Nat}
    {f : State → Nat → Byte} (hx : ∀ k < n, x % s.size ≠ (dst + (k : Int)) % s.size) :
    (s.writeSeq dst n f).memRead8 x = s.memRead8 x := by
  induction n with
  | zero => rfl
  | succ n ih =>
    rw [State.memRead8_writeSeq_succ h, if_neg (hx n n.lt_succ_self)]
    exact ih fun k hk => hx k (Nat.lt_succ_of_lt hk)

/-- Two offsets below `N` reach two different bytes (R41). -/
theorem State.add_emod_ne {s : State} {j k : Nat} (hjk : j < k) (hk : k < s.size) (a : Int) :
    (a + j) % s.size ≠ (a + k) % s.size := by
  intro heq
  have hmod : (j : Int) ≡ k [ZMOD s.size] := Int.ModEq.add_left_cancel' a heq
  have hnat : j % s.size = k % s.size := Int.natCast_modEq_iff.1 hmod
  rw [Nat.mod_eq_of_lt (hjk.trans hk), Nat.mod_eq_of_lt hk] at hnat
  omega

/-- A run no longer than memory meets no byte twice, so each reads as it was written. -/
theorem State.memRead8_writeSeq_of_lt {s : State} (h : s.mem.wf = true) {dst : Int} {n k : Nat}
    {f : State → Nat → Byte} (hn : n ≤ s.size) (hk : k < n) :
    (s.writeSeq dst n f).memRead8 (dst + k) = f (s.writeSeq dst k f) k := by
  induction n with
  | zero => exact absurd hk k.not_lt_zero
  | succ n ih =>
    rw [State.memRead8_writeSeq_succ h]
    obtain rfl | hlt : k = n ∨ k < n := by omega
    · rw [if_pos rfl]
    · rw [if_neg (State.add_emod_ne hlt hn dst), ih (Nat.le_of_succ_le hn) hlt]

/-- The bytes of a source apart from the destination are still there when each is read (R272). -/
theorem State.memRead8_copy_of_disjoint {s : State} (h : s.mem.wf = true) {src dst : Int} {n k : Nat}
    (hdisj : ∀ i < n, ∀ j < n, (src + (i : Int)) % s.size ≠ (dst + (j : Int)) % s.size) (hn : n ≤ s.size) (hk : k < n) :
    (s.writeSeq dst n fun w i => w.memRead8 (src + i)).memRead8 (dst + k) = s.memRead8 (src + k) := by
  rw [State.memRead8_writeSeq_of_lt h hn hk]
  exact State.memRead8_writeSeq_of_outside h fun j hj => hdisj k hk j (hj.trans hk)

/-- A copy onto the next address: each read meets the byte just written, which is the first one (R272). -/
theorem State.memRead8_copy_next {s : State} (h : s.mem.wf = true) (src : Int) (n : Nat) {k : Nat} (hk : k ≤ n) :
    (s.writeSeq (src + 1) n fun w i => w.memRead8 (src + i)).memRead8 (src + k) = s.memRead8 src := by
  induction n generalizing k with
  | zero =>
    obtain rfl : k = 0 := Nat.le_zero.1 hk
    rw [State.writeSeq_zero, Nat.cast_zero, add_zero]
  | succ n ih =>
    rw [State.memRead8_writeSeq_succ h]
    split
    case isTrue => exact ih le_rfl
    case isFalse hne =>
      have hkn : k ≠ n + 1 := by
        rintro rfl
        exact hne (by rw [Nat.cast_succ, add_assoc, add_comm (n : Int)])
      exact ih (by omega)

/-- The end of SCAN and SCANM: a run is written, and nothing else but `pc` (R271, R272). -/
theorem State.writeSeq_advance_ok_next (s : State) (dst : Int) (n : Nat) (f : State → Nat → Byte) (c : Nat) :
    ∃ t, ((s.writeSeq dst n f).advance 5).ok c = .next t ∧ t.mem = (s.writeSeq dst n f).mem ∧
      memSame (s.writeSeq dst n f) t ∧ t.pc = (s.pc + 5) % s.size ∧ succeeded s t c ∧ regsSameExcept s t [] ∧
      flagsSame s t ∧ t.sp = s.sp ∧ envSame s t := by
  obtain ⟨m, hb, hm, -⟩ := s.writeSeq_spec dst n f
  rw [hm]
  obtain ⟨t, ht, hend⟩ := s.withMem_advance_ok_next m hb 5 c
  have hmem : t.mem = m := by
    cases ht
    rfl
  exact ⟨t, ht, hmem, hend⟩

/-! ### SCAN -/

theorem execScan_of_ctx_eq_none {s : State} (hctx : s.ctx = none) (dst : Word) :
    exec (.scan dst) s = s.fail .requiresUnitContext 1 := by
  simp only [exec, execScan, hctx, State.failCost_eq]

theorem execScan_of_thrown {s : State} {ctx : UnitContext} {m : String} (hctx : s.ctx = some ctx)
    (hscan : ctx.scan = .thrown m) (dst : Word) :
    exec (.scan dst) s = (s.callAll [.scan ctx.self s.mem dst]).fail (.internalError m) 1 := by
  simp only [exec, execScan, hctx, hscan, State.failCost_eq, State.call_eq_callAll]

theorem execScan_of_answered {s : State} {ctx : UnitContext} {bs : List Byte} (hctx : s.ctx = some ctx)
    (hscan : ctx.scan = .ok bs) (dst : Word) :
    exec (.scan dst) s = (((s.call (.scan ctx.self s.mem dst)).writeSeq dst.toNat bs.length
      fun _ k => bs.getD k 0).advance 5).ok 5 := by
  simp only [exec, execScan, hctx, hscan, State.memWriteBytes_eq_writeSeq]

/-- Settles O47: the answered bytes are a run, whose bytes do not depend on the state they are written to. -/
theorem scanWritesTheSerialisedSpec : Obligations.ScanWritesTheSerialisedSpec := by
  intro p s dst hmem
  refine ⟨rfl, fun hctx => ?_, fun ctx m hctx hscan => ?_, fun ctx bs hctx hscan => ?_⟩
  · obtain ⟨hfail, hcalls, -⟩ := State.fail_next (s := s) (e := .requiresUnitContext) (c := 1) rfl
    exact ⟨_, execScan_of_ctx_eq_none hctx dst, hfail, hcalls⟩
  · rw [execScan_of_thrown hctx hscan]
    exact s.callAll_fail_next _ _ _
  · have hwf : (s.call (.scan ctx.self s.mem dst)).mem.wf = true := hmem
    obtain ⟨t, ht, htmem, hread, hpc, hok, hreg, hflags, hsp, hparams, hctx', hinputs, hcalls⟩ :=
      (s.call (.scan ctx.self s.mem dst)).writeSeq_advance_ok_next dst.toNat bs.length (fun _ k => bs.getD k 0) 5
    refine ⟨t, (execScan_of_answered hctx hscan dst).trans ht, ?_, fun hlen k hk => ?_, fun x hx => ?_, hpc, hok, hreg,
      hflags, hsp, hparams, hctx', hinputs, hcalls⟩
    · rw [htmem, State.writeSeq_call fun _ _ => rfl]
      rfl
    · rw [hread, State.memRead8_writeSeq_of_lt hwf hlen hk]
    · rw [hread, State.memRead8_writeSeq_of_outside hwf hx]
      rfl

/-! ### SCANM -/

theorem scanmZeroLength_eq (z : ScanmZeroLen) : scanmZeroLength z = if z = .len256 then 256 else 1 := by
  cases z <;> rfl

/-- The length in the terms of R272: the low byte of C, and the parameter's value for 0. -/
theorem State.scanmLength_eq (s : State) :
    s.scanmLength =
      if s.c.toNat % 256 = 0 then (if s.params.scanmZeroLen = .len256 then 256 else 1) else s.c.toNat % 256 := by
  rw [State.scanmLength, scanmZeroLength_eq]

theorem execScanm_eq_writeSeq (src dst : Word) (s : State) :
    exec (.scanm src dst) s = ((s.writeSeq dst.toNat s.scanmLength
      fun w k => w.memRead8 ((src.toNat : Int) + k)).advance 5).ok (5 + s.scanmLength) := by
  rw [← State.memCopy_eq_writeSeq]
  rfl

/-- Settles O48: the copy is a run. -/
theorem scanmCopiesForward : Obligations.ScanmCopiesForward := by
  intro p s src dst len hmem hlen
  rw [← s.scanmLength_eq] at hlen
  subst hlen
  obtain ⟨t, ht, htmem, hread, hend⟩ := s.writeSeq_advance_ok_next dst.toNat s.scanmLength
    (fun w k => w.memRead8 ((src.toNat : Int) + k)) (5 + s.scanmLength)
  refine ⟨rfl, t, (execScanm_eq_writeSeq src dst s).trans ht, htmem, fun hdisj hN k hk => ?_, fun x hx => ?_, hend⟩
  · rw [hread, State.memRead8_copy_of_disjoint hmem hdisj hN hk]
  · rw [hread, State.memRead8_writeSeq_of_outside hmem hx]

/-- Settles O49: the copy is one onto the next address, of as many bytes as the low byte of C says. -/
theorem scanmOverlapRepeatsTheFirstByte : Obligations.ScanmOverlapRepeatsTheFirstByte := by
  intro s src dst hmem hdst hc _
  have hlen : s.scanmLength = s.c.toNat % 256 := by rw [State.scanmLength, if_neg hc]
  have hnext : (dst.toNat : Int) = (src.toNat : Int) + 1 := by omega
  obtain ⟨t, ht, -, hread, -⟩ := s.writeSeq_advance_ok_next dst.toNat s.scanmLength
    (fun w k => w.memRead8 ((src.toNat : Int) + k)) (5 + s.scanmLength)
  refine ⟨t, (execScanm_eq_writeSeq src dst s).trans ht, fun k hk => ?_⟩
  rw [hread, hnext, State.memRead8_copy_next hmem _ _ (hlen ▸ hk)]

end Sys2Proof.Machine
end

section
/-! PROOF. ENERGY and ASSEMBLE (46_special.md R270, R273 to R279): what an answer in A leaves unchanged, how each check of
a target ends or goes on, what the three commands find of an Assembler, and from these the statements. -/

namespace Sys2Proof.Machine

/-! ### An answer in A -/

/-- The end of a SPECIAL instruction that answers in A: A, `pc` and the result are written, and nothing else (R270). -/
theorem State.answerA_next (s : State) (v : Word) :
    ∃ t, s.answerA v = .next t ∧ t.a = v ∧ t.pc = (s.pc + 5) % s.size ∧ succeeded s t 5 ∧ regsSameExcept s t [.a] ∧
      flagsSame s t ∧ t.sp = s.sp ∧ t.mem = s.mem ∧ envSame s t := by
  obtain ⟨t, ht, ha, hpc, hok, ⟨hreg, hsp, -, henv⟩, hflags⟩ := s.setReg_advance_ok_next .a v 5 5
  have hmem : t.mem = (s.setReg .a v).mem := by
    cases ht
    rfl
  exact ⟨t, ht, ha, hpc, hok, hreg, hflags, hsp, hmem.trans (s.setReg_mem .a v), henv⟩

/-! ### ENERGY -/

theorem execEnergy_of_ctx_eq_none {s : State} (hctx : s.ctx = none) (sub : Byte) :
    exec (.energy sub) s = s.fail .requiresUnitContext 1 := by
  simp only [exec, execEnergy, hctx, State.failCost_eq]

theorem execEnergy_of_success {s : State} {sub : Byte} {ctx : UnitContext} {res : EnergyResult}
    (hctx : s.ctx = some ctx) (henergy : ctx.energy.get sub = .ok res) (hres : res.success = true) :
    exec (.energy sub) s = (s.callAll [.energy ctx.self sub]).answerA (BitVec.ofInt 16 (res.value.getD 0)) := by
  simp only [exec, execEnergy, hctx, henergy, hres, if_true, State.call_eq_callAll]

theorem execEnergy_of_failure {s : State} {sub : Byte} {ctx : UnitContext} {res : EnergyResult}
    (hctx : s.ctx = some ctx) (henergy : ctx.energy.get sub = .ok res) (hres : res.success = false) :
    exec (.energy sub) s = (s.callAll [.energy ctx.self sub]).fail (.energyCommandFailed res.error) 1 := by
  simp only [exec, execEnergy, hctx, henergy, hres, Bool.false_eq_true, if_false, State.failCost_eq,
    State.call_eq_callAll]

/-- A value narrowed to a word is the value masked to 16 bits (R273). -/
theorem toNat_ofInt_word (v : Int) : ((BitVec.ofInt 16 v).toNat : Int) = v % 0x10000 := by
  rw [BitVec.toNat_ofInt]
  omega

/-- Settles O50: the one call is recorded, and its answer decides the end. -/
theorem energyWritesTheAnsweredValue : Obligations.EnergyWritesTheAnsweredValue := by
  intro p s sub
  refine ⟨rfl, fun hctx => ?_, fun ctx res hctx henergy => ⟨fun hres => ?_, fun hres => ?_⟩⟩
  · obtain ⟨hfail, hcalls, -⟩ := State.fail_next (s := s) (e := .requiresUnitContext) (c := 1) rfl
    exact ⟨_, execEnergy_of_ctx_eq_none hctx sub, hfail, hcalls⟩
  · obtain ⟨t, ht, ha, hend⟩ :=
      (s.callAll [.energy ctx.self sub]).answerA_next (BitVec.ofInt 16 (res.value.getD 0))
    exact ⟨t, (execEnergy_of_success hctx henergy hres).trans ht, ha ▸ toNat_ofInt_word _, hend⟩
  · rw [execEnergy_of_failure hctx henergy hres]
    exact s.callAll_fail_next _ _ _

/-! ### The checks of ASSEMBLE (R274, R278) -/

theorem State.callAll_fail_failedWith (s : State) (ks : List ExtCall) (e : ErrorCode) (c : Nat) :
    ∃ t, (s.callAll ks).fail e c = .next t ∧ failedWith s t e c := by
  obtain ⟨t, ht, hfail, -⟩ := s.callAll_fail_next ks e c
  exact ⟨t, ht, hfail⟩

section Checks

variable {s : State} {sel cmd : Byte} {ctx : UnitContext} {u : UnitId} {m : Assembler}

/-- A unit of a type the instruction does not accept is not found (R274). -/
theorem State.resolve_of_not_accepted {accept : UnitType → Bool} (hctx : s.ctx = some ctx)
    (hlookup : ctx.lookup.get sel = .ok (some u)) (haccept : accept (ctx.units.get u).type = false) (cost : Nat)
    (k : State → UnitContext → UnitId → Result) :
    s.resolve sel accept cost k = (s.callAll [.lookup sel]).fail (.unitNotFound sel) cost := by
  simp only [State.resolve, hctx, hlookup, haccept, Bool.false_eq_true, if_false, State.call_eq_callAll]

theorem isAssemblerType_eq_true {t : UnitType} (h : t = .assembler) : isAssemblerType t = true := decide_eq_true h

theorem isAssemblerType_eq_false {t : UnitType} (h : t ≠ .assembler) : isAssemblerType t = false := decide_eq_false h

/-- The calls ASSEMBLE has made once its target is resolved (R274). -/
abbrev resolveCalls (ctx : UnitContext) (sel : Byte) (u : UnitId) : List ExtCall :=
  [.lookup sel, .canAccess ctx.self u]

/-- What ASSEMBLE does with the Assembler it reaches: one of its three commands, or a failure (R274, R278). -/
def State.assembleCommand (s : State) (sel cmd : Byte) (ctx : UnitContext) (u : UnitId) : Result :=
  match cmd.toNat with
  | 0 => s.assembleStart sel ctx u
  | 1 => s.assembleStop ctx u
  | 2 => s.assembleQuery ctx u
  | _ => s.fail (.invalidAssembleCommand cmd) s.failCost

/-- The target is resolved as for a UNIT instruction, a failure costing 1, and then the command is looked at (R274). -/
theorem execAssemble_eq_resolve (s : State) (sel cmd : Byte) :
    exec (.assemble sel cmd) s = s.resolve sel isAssemblerType 1 fun s ctx u => s.assembleCommand sel cmd ctx u := by
  rw [← s.failCost_eq]
  rfl

theorem execAssemble_of_reaches (hctx : s.ctx = some ctx) (hreach : reachesAssembler ctx sel u) (cmd : Byte) :
    exec (.assemble sel cmd) s = (s.callAll (resolveCalls ctx sel u)).assembleCommand sel cmd ctx u := by
  obtain ⟨hunit, htype⟩ := hreach
  rw [execAssemble_eq_resolve, State.resolve_of_reaches hctx hunit (isAssemblerType_eq_true htype)]

theorem State.assembleCommand_zero (s : State) (sel : Byte) (ctx : UnitContext) (u : UnitId) :
    s.assembleCommand sel 0 ctx u = s.assembleStart sel ctx u := rfl

theorem State.assembleCommand_one (s : State) (sel : Byte) (ctx : UnitContext) (u : UnitId) :
    s.assembleCommand sel 1 ctx u = s.assembleStop ctx u := rfl

theorem State.assembleCommand_two (s : State) (sel : Byte) (ctx : UnitContext) (u : UnitId) :
    s.assembleCommand sel 2 ctx u = s.assembleQuery ctx u := rfl

theorem State.assembleCommand_of_gt_two (hcmd : 2 < cmd.toNat) :
    s.assembleCommand sel cmd ctx u = s.fail (.invalidAssembleCommand cmd) 1 := by
  rw [State.assembleCommand, s.failCost_eq]
  split
  case h_4 => rfl
  all_goals omega

/-- Settles O51: each check that fails ends the step there, the command's last. -/
theorem assembleChecksInOrder : Obligations.AssembleChecksInOrder := by
  intro p s sel cmd ctx u
  refine ⟨rfl, fun hctx => ?_, fun hctx hlookup => ?_, fun hctx hlookup htype => ?_,
    fun hctx hlookup htype haccess => ?_, fun hctx hreach htype hcmd => ?_⟩
  · rw [execAssemble_eq_resolve, State.resolve_of_ctx_eq_none hctx]
    obtain ⟨hfail, -⟩ := State.fail_next (s := s) (e := .requiresUnitContext) (c := 1) rfl
    exact ⟨_, rfl, hfail⟩
  · rw [execAssemble_eq_resolve, State.resolve_of_lookup_eq_none hctx hlookup]
    exact s.callAll_fail_failedWith _ _ _
  · rw [execAssemble_eq_resolve, State.resolve_of_not_accepted hctx hlookup (isAssemblerType_eq_false htype)]
    exact s.callAll_fail_failedWith _ _ _
  · rw [execAssemble_eq_resolve, State.resolve_of_access_denied hctx hlookup (isAssemblerType_eq_true htype) haccess]
    exact s.callAll_fail_failedWith _ _ _
  · rw [execAssemble_of_reaches hctx ⟨hreach, htype⟩, State.assembleCommand_of_gt_two hcmd]
    exact s.callAll_fail_failedWith _ _ _

/-! ### Query -/

theorem Assembler.status_of_idle (h : m.isAssembling = false) : m.status = 0 := by
  rw [Assembler.status, h]
  rfl

theorem Assembler.status_of_producing (h : m.isAssembling = true) (hlt : m.progress < 1) : m.status = 1 := by
  rw [Assembler.status, if_pos h, if_neg (not_le.2 hlt)]

theorem Assembler.status_of_complete (h : m.isAssembling = true) (hle : 1 ≤ m.progress) : m.status = 2 := by
  rw [Assembler.status, if_pos h, if_pos hle]

theorem execAssemble_query (hctx : s.ctx = some ctx) (hreach : reachesAssembler ctx sel u)
    (hasm : (ctx.units.get u).assembler = .ok m) :
    exec (.assemble sel 2) s = (s.callAll (resolveCalls ctx sel u ++ [.assemblerQuery u])).answerA m.status := by
  rw [execAssemble_of_reaches hctx hreach, State.assembleCommand_two, State.assembleQuery, hasm, ← State.callAll_call]

/-- Settles O52: the answer is the status, which the three states of R279 fix. -/
theorem assembleQueryReportsTheStatus : Obligations.AssembleQueryReportsTheStatus := by
  intro s sel ctx u m hctx hreach htype hasm
  obtain ⟨t, ht, ha, hpc, hok, hreg, hflags, hsp, hmem, hparams, hctx', hinputs, -⟩ :=
    (s.callAll (resolveCalls ctx sel u ++ [.assemblerQuery u])).answerA_next m.status
  exact ⟨t, (execAssemble_query hctx ⟨hreach, htype⟩ hasm).trans ht,
    fun hidle => ha.trans (Assembler.status_of_idle hidle),
    fun hbusy hlt => ha.trans (Assembler.status_of_producing hbusy hlt),
    fun hbusy hle => ha.trans (Assembler.status_of_complete hbusy hle),
    hpc, hok, hreg, hflags, hsp, hmem, hparams, hctx', hinputs⟩

/-! ### The Assembler's state replaced (R279) -/

/-- Only the unit named changes, and of it only the Assembler's state. -/
theorem UnitContext.setAssembler_units_get (ctx : UnitContext) (u v : UnitId) (m : Assembler) :
    (ctx.setAssembler u m).units.get v =
      if v = u then { ctx.units.get u with assembler := .ok m } else ctx.units.get v :=
  Table.get_set _ _ _ _

theorem UnitContext.setAssembler_units_get_self (ctx : UnitContext) (u : UnitId) (m : Assembler) :
    (ctx.setAssembler u m).units.get u = { ctx.units.get u with assembler := .ok m } := by
  rw [UnitContext.setAssembler_units_get, if_pos rfl]

theorem UnitContext.setAssembler_units_get_of_ne (ctx : UnitContext) {u v : UnitId} (h : v ≠ u) (m : Assembler) :
    (ctx.setAssembler u m).units.get v = ctx.units.get v := by
  rw [UnitContext.setAssembler_units_get, if_neg h]

/-- Setting the state an Assembler has already changes no unit. -/
theorem UnitContext.setAssembler_units_get_of_eq (hasm : (ctx.units.get u).assembler = .ok m) (v : UnitId) :
    (ctx.setAssembler u m).units.get v = ctx.units.get v := by
  rw [UnitContext.setAssembler_units_get]
  split
  case isTrue hv => rw [hv, ← hasm]
  case isFalse => rfl

/-- The selector reaches the same Assembler whatever the state set. -/
theorem reachesAssembler_setAssembler (hreach : reachesAssembler ctx sel u) (m : Assembler) :
    reachesAssembler (ctx.setAssembler u m) sel u := by
  obtain ⟨⟨hlookup, haccess⟩, htype⟩ := hreach
  rw [reachesAssembler, reaches, UnitContext.setAssembler_units_get_self]
  exact ⟨⟨hlookup, haccess⟩, htype⟩

/-- The end of a Start or a Stop that succeeds: A answers 1, the Assembler is in its new state, and else nothing but `pc`
and the record of the calls is written. -/
theorem State.setAssembler_answerA_next (s : State) (ks : List ExtCall) (ctx : UnitContext) (u : UnitId)
    (m : Assembler) :
    ∃ t, ((s.callAll ks).setAssembler ctx u m).answerA 1 = .next t ∧ t.a = 1 ∧ t.ctx = some (ctx.setAssembler u m) ∧
      t.pc = (s.pc + 5) % s.size ∧ succeeded s t 5 ∧ regsSameExcept s t [.a] ∧ flagsSame s t ∧ t.sp = s.sp ∧
      t.mem = s.mem ∧ t.params = s.params ∧ t.inputs = s.inputs := by
  obtain ⟨t, ht, ha, hpc, hok, hreg, hflags, hsp, hmem, hparams, hctx, hinputs, -⟩ :=
    ((s.callAll ks).setAssembler ctx u m).answerA_next 1
  exact ⟨t, ht, ha, hctx, hpc, hok, hreg, hflags, hsp, hmem, hparams, hinputs⟩

/-! ### Stop -/

theorem execAssemble_stop (hctx : s.ctx = some ctx) (hreach : reachesAssembler ctx sel u)
    (hasm : (ctx.units.get u).assembler = .ok m) :
    exec (.assemble sel 1) s = ((s.callAll (resolveCalls ctx sel u ++ [.assemblerStop u])).setAssembler ctx u
      Assembler.stopped).answerA 1 := by
  rw [execAssemble_of_reaches hctx hreach, State.assembleCommand_one, State.assembleStop, hasm, ← State.callAll_call]

/-- Settles O53: the selector still reaches the stopped Assembler, and stopping it again changes no unit. -/
theorem assembleStopIsIdempotent : Obligations.AssembleStopIsIdempotent := by
  intro s sel ctx u m hctx hreach htype hasm
  have hreachAsm : reachesAssembler ctx sel u := ⟨hreach, htype⟩
  have hstopped : ((ctx.setAssembler u Assembler.stopped).units.get u).assembler = .ok Assembler.stopped := by
    rw [UnitContext.setAssembler_units_get_self]
  obtain ⟨t, ht, ha, htctx, hend⟩ := s.setAssembler_answerA_next (resolveCalls ctx sel u ++ [.assemblerStop u]) ctx u
    Assembler.stopped
  have hreachAgain := reachesAssembler_setAssembler hreachAsm Assembler.stopped
  obtain ⟨t', ht', ha', htctx', -⟩ := t.setAssembler_answerA_next
    (resolveCalls (ctx.setAssembler u Assembler.stopped) sel u ++ [.assemblerStop u])
    (ctx.setAssembler u Assembler.stopped) u Assembler.stopped
  exact ⟨t, t', _, _, (execAssemble_stop hctx hreachAsm hasm).trans ht,
    (execAssemble_stop htctx hreachAgain hstopped).trans ht', ha, ha', htctx, htctx', hstopped,
    fun v hv => ctx.setAssembler_units_get_of_ne hv _, UnitContext.setAssembler_units_get_of_eq hstopped, hend⟩

/-! ### Start -/

theorem execAssemble_start_of_busy (hctx : s.ctx = some ctx) (hreach : reachesAssembler ctx sel u)
    (hasm : (ctx.units.get u).assembler = .ok m) (hbusy : m.isAssembling = true) :
    exec (.assemble sel 0) s = (s.callAll (resolveCalls ctx sel u ++ [.assemblerStart u])).answerA 0 := by
  rw [execAssemble_of_reaches hctx hreach, State.assembleCommand_zero, ← State.callAll_call]
  simp only [State.assembleStart, hasm, hbusy, if_true]

/-- The calls of a Start that goes on past an Assembler that is not producing (R275, log 11). -/
abbrev startCalls (ctx : UnitContext) (sel : Byte) (u : UnitId) : List ExtCall :=
  resolveCalls ctx sel u ++ [.assemblerStart u] ++ [.memIf u]

theorem execAssemble_start_of_no_interface (hctx : s.ctx = some ctx) (hreach : reachesAssembler ctx sel u)
    (hasm : (ctx.units.get u).assembler = .ok m) (hidle : m.isAssembling = false)
    (hmemIf : (ctx.units.get u).memIf = .ok none) :
    exec (.assemble sel 0) s = (s.callAll (startCalls ctx sel u)).fail (.noMemoryInterface sel) 1 := by
  rw [execAssemble_of_reaches hctx hreach, State.assembleCommand_zero]
  simp only [State.assembleStart, hasm, hidle, Bool.false_eq_true, if_false, State.openMemIf_of_none hmemIf,
    State.callAll_call, State.failCost_eq]

/-- What an idle Assembler with an interface comes to is the one oracle outcome (R275, log 11). -/
def State.startOutcome (s : State) (sel : Byte) (ctx : UnitContext) (u : UnitId) : StartOutcome → Result
  | .readRejected address => s.fail (.memoryReadRejected sel address) 1
  | .writeRejected address => s.fail (.memoryWriteRejected sel address) 1
  | .started spec => (s.setAssembler ctx u (Assembler.started spec)).answerA 1

theorem execAssemble_start_of_interface {mi : MemInterface} {outcome : StartOutcome} (hctx : s.ctx = some ctx)
    (hreach : reachesAssembler ctx sel u) (hasm : (ctx.units.get u).assembler = .ok m)
    (hidle : m.isAssembling = false) (hmemIf : (ctx.units.get u).memIf = .ok (some mi))
    (hstart : (ctx.units.get u).start = .ok outcome) :
    exec (.assemble sel 0) s = (s.callAll (startCalls ctx sel u)).startOutcome sel ctx u outcome := by
  rw [execAssemble_of_reaches hctx hreach, State.assembleCommand_zero]
  simp only [State.assembleStart, hasm, hidle, Bool.false_eq_true, if_false, State.openMemIf_of_some hmemIf,
    State.callAll_call, hstart, State.failCost_eq]
  cases outcome <;> rfl

/-- Settles O54: whether the Assembler is producing, then its interface, then the outcome decide the end; only the
outcome `started` sets its state. -/
theorem assembleStartStartsAnIdleAssembler : Obligations.AssembleStartStartsAnIdleAssembler := by
  intro s sel ctx u m hctx hreach htype hasm
  have hreachAsm : reachesAssembler ctx sel u := ⟨hreach, htype⟩
  refine ⟨fun hbusy => ?_, fun hidle hmemIf => ?_,
    fun mi hidle hmemIf => ⟨fun spec hstart => ?_, fun a hstart => ?_, fun a hstart => ?_⟩⟩
  · obtain ⟨t, ht, ha, hpc, hok, hreg, hflags, hsp, hmem, hparams, hctx', hinputs, -⟩ :=
      (s.callAll (resolveCalls ctx sel u ++ [.assemblerStart u])).answerA_next 0
    exact ⟨t, (execAssemble_start_of_busy hctx hreachAsm hasm hbusy).trans ht, ha, hpc, hok, hreg, hflags, hsp, hmem,
      hparams, hctx', hinputs⟩
  · rw [execAssemble_start_of_no_interface hctx hreachAsm hasm hidle hmemIf]
    exact s.callAll_fail_failedWith _ _ _
  · obtain ⟨t, ht, ha, htctx, hend⟩ := s.setAssembler_answerA_next (startCalls ctx sel u) ctx u (Assembler.started spec)
    have hstarted : ((ctx.setAssembler u (Assembler.started spec)).units.get u).assembler =
        .ok (Assembler.started spec) := by
      rw [UnitContext.setAssembler_units_get_self]
    exact ⟨t, _, (execAssemble_start_of_interface hctx hreachAsm hasm hidle hmemIf hstart).trans ht, ha, htctx, hstarted,
      fun v hv => ctx.setAssembler_units_get_of_ne hv _, hend⟩
  · rw [execAssemble_start_of_interface hctx hreachAsm hasm hidle hmemIf hstart]
    exact s.callAll_fail_failedWith _ _ _
  · rw [execAssemble_start_of_interface hctx hreachAsm hasm hidle hmemIf hstart]
    exact s.callAll_fail_failedWith _ _ _

end Checks

end Sys2Proof.Machine
end

section
/-! PROOF. Failures (60_exceptions.md R300 to R309): every step ends in a success or a failure of its own, a failed one
changes nothing, and so it repeats where the environment answers as before. -/

namespace Sys2Proof.Machine

/-- Every end is a next state that reports the success, or is a failure with nothing changed, at a positive cost. -/
theorem EndsFrom.exists_next {s : State} {r : Result} (h : EndsFrom s r) :
    ∃ t, r = .next t ∧
      ((∃ c, t.result = some (.success c) ∧ 0 < c ∧ t.used = s.used + c ∧ t.halted = s.halted) ∨
        ∃ e c, 0 < c ∧ failedWith s t e c) := by
  cases h with
  | @ok u c hrun hc => exact ⟨_, rfl, .inl ⟨c, rfl, hc, congrArg (· + c) hrun.used, hrun.halted⟩⟩
  | @fail calls e c hc =>
    obtain ⟨hfail, -⟩ := State.fail_next (s := { s with calls := calls }) (e := e) (c := c) rfl
    exact ⟨_, rfl, .inr ⟨e, c, hc, hfail⟩⟩

/-- An end that reports a failure is that failure. -/
theorem EndsFrom.failedWith {s t : State} {r : Result} {e : ErrorCode} {c : Nat} (h : EndsFrom s r) (ht : r = .next t)
    (hres : t.result = some (.failure e c)) : failedWith s t e c := by
  cases h with
  | ok => cases ht; cases hres
  | fail calls e' =>
    obtain ⟨hfail, -⟩ := State.fail_next ht
    cases ht
    cases hres
    exact hfail

/-- Settles O8: a step ends from the state it begins with, whose accumulator and halt are those before. -/
theorem stepNeverStops : Obligations.StepNeverStops := by
  intro s
  obtain ⟨t, ht, hend⟩ := (step_endsFrom s).exists_next
  refine ⟨t, ht, hend.imp_right ?_⟩
  rintro ⟨e, c, hc, -, -, -, -, hres, hused, hhalted⟩
  exact ⟨e, c, hres, hc, hused, hhalted⟩

/-- Settles O9: before it fails, a step has only taken the environment's input. -/
theorem failedStepChangesNothing : Obligations.FailedStepChangesNothing := by
  intro s t e c hstep hres
  obtain ⟨hvm, hparams, hctx, hinputs, -, -, hhalted⟩ := (step_endsFrom s).failedWith hstep hres
  exact ⟨hvm, hparams, hctx, hinputs, hhalted⟩

theorem State.nextCtx_of_inputs_eq_nil {s : State} (h : s.inputs = []) : s.nextCtx = s.ctx := by
  rw [State.nextCtx, h]

/-- Settles O11: the failure left all that a step reads as it was (O9), so the next tick's first step goes alike
(O12). -/
theorem failureRepeatsOnTheNextTick : Obligations.FailureRepeatsOnTheNextTick := by
  intro s t e c hinputs hstep hres
  obtain ⟨hvm, hparams, hctx, hqueue, -⟩ := failedStepChangesNothing s t e c hstep hres
  have hsameCtx : t.ctx = s.ctx := hctx.trans (State.nextCtx_of_inputs_eq_nil hinputs)
  have hsameQueue : t.inputs = s.inputs := by rw [hqueue, hinputs, List.tail_nil]
  obtain ⟨t', u, ht', hu, huvm, -, -, -, -, hures, humsg⟩ :=
    runLoopStateIsInvisible s t.beginTick hvm hparams hsameCtx hsameQueue
  obtain rfl : t = t' := Host.Outcome.next.inj (hstep.symm.trans ht')
  have hfail : u.result = some (.failure e c) := hures.trans hres
  obtain ⟨-, -, -, -, -, hused, -⟩ := (step_endsFrom t.beginTick).failedWith hu hfail
  exact ⟨u, hu, hfail, humsg, huvm.trans hvm, hused.trans (Nat.zero_add c)⟩

end Sys2Proof.Machine
end

section
/-! PROOF. Construction and `reset()` (70_reset_and_hazards.md R330 to R334): what bytes loaded from outside leave to read,
and the statements. -/

namespace Sys2Proof.Machine

/-- Loading keeps the parameters. -/
theorem State.loadBytes_params (s : State) (a : Int) (bs : List Byte) : (s.loadBytes a bs).params = s.params := by
  obtain ⟨m, h, hm, -⟩ := State.loadBytes_spec bs s a
  rw [hm, State.withMem_params]

/-- Each of the loaded bytes that are not more than memory holds reads as it was loaded (R330). -/
theorem State.memRead8_loadBytes {s : State} (h : s.mem.wf = true) (bs : List Byte) : ∀ (a : Int) {k : Nat},
    k < bs.length → k < s.size → (s.loadBytes a bs).memRead8 (a + k) = bs.getD k 0 := by
  induction bs with
  | nil => exact fun _ k hk => absurd hk k.not_lt_zero
  | cons b rest ih =>
    intro a k hk hsize
    obtain ⟨m, hb, hm, hwf⟩ := State.loadBytes_spec rest s (a + 1)
    have hrest : (s.loadBytes (a + 1) rest).mem.wf = true := hm ▸ hwf h
    have hN : (s.loadBytes (a + 1) rest).size = s.size := State.size_congr (s.loadBytes_params (a + 1) rest)
    simp only [State.loadBytes, State.memRead8_memWrite8 hrest, State.wrap_eq_wrap, hN]
    cases k with
    | zero => simp
    | succ j =>
      have hne : (a + (j + 1 : Nat)) % s.size ≠ a % s.size := by
        simpa using (State.add_emod_ne j.succ_pos hsize a).symm
      have hnext : a + (j + 1 : Nat) = a + 1 + j := by push_cast; ring
      rw [if_neg hne, hnext, ih (a + 1) (Nat.lt_of_succ_lt_succ hk) (Nat.lt_of_succ_lt hsize), List.getD_cons_succ]

/-! ### Construction -/

theorem construct_of_out_of_range {n : Int} (h : n < 1 ∨ 65536 < n) (p : Params) (buffer : Option (List Byte)) :
    construct p n buffer = .error .invalidSize :=
  dif_neg (by omega)

theorem validBuffer_iff (n : Int) (buffer : Option (List Byte)) :
    validBuffer n buffer = true ↔ ∀ bytes, buffer = some bytes → (bytes.length : Int) = n := by
  cases buffer <;> simp [validBuffer]

theorem construct_of_mismatch {n : Int} (h1 : 1 ≤ n) (h2 : n ≤ 65536) {buffer : Option (List Byte)}
    (hbuf : ¬ validBuffer n buffer = true) (p : Params) : construct p n buffer = .error .sizeMismatch := by
  rw [construct, dif_pos ⟨h1, h2⟩, if_neg hbuf]

/-- The memory size of what is constructed is `n` itself (R330). -/
theorem construct_of_valid {n : Int} (h1 : 1 ≤ n) (h2 : n ≤ 65536) {buffer : Option (List Byte)}
    (hbuf : validBuffer n buffer = true) (p : Params) :
    ∃ q : Params, (q.memSize.val : Int) = n ∧
      construct p n buffer = .ok ((State.resetWith q).loadBytes 0 (buffer.getD [])) := by
  refine ⟨withSize p ⟨n.toNat, by omega, by omega⟩, Int.toNat_of_nonneg (by omega), ?_⟩
  rw [construct, dif_pos ⟨h1, h2⟩, if_pos hbuf]

/-- After reset every byte reads 0 (R333). -/
theorem State.read_mem_resetWith (p : Params) (k : Nat) : (State.resetWith p).mem.read k = 0 := rfl

/-- Memory after construction: the buffer's bytes where there is one, which has one for each address, and zeros where
there is none (R330). -/
theorem State.read_mem_resetWith_loadBytes {p : Params} {buffer : Option (List Byte)}
    (hbuf : ∀ bytes, buffer = some bytes → bytes.length = p.memSize.val) {k : Nat} (hk : k < p.memSize.val) :
    ((State.resetWith p).loadBytes 0 (buffer.getD [])).mem.read k = (buffer.getD []).getD k 0 := by
  cases buffer with
  | none => exact State.read_mem_resetWith p k
  | some bytes =>
    have hread := State.memRead8_loadBytes (s := State.resetWith p) rfl bytes 0 (hbuf bytes rfl ▸ hk) hk
    have hsize : ((State.resetWith p).loadBytes 0 bytes).size = p.memSize.val :=
      State.size_congr ((State.resetWith p).loadBytes_params 0 bytes)
    rwa [zero_add, State.memRead8, State.wrap_of_lt _ (hsize ▸ hk)] at hread

/-- Settles O55: the checks in the order of `construct`, then the state after reset with the bytes loaded, which changes
memory alone. -/
theorem constructionChecksAndInitialises : Obligations.ConstructionChecksAndInitialises := by
  intro p n buffer
  refine ⟨fun h => construct_of_out_of_range h p buffer, fun bytes h1 h2 hbuffer hlen => ?_, fun h1 h2 hlen => ?_⟩
  · exact construct_of_mismatch h1 h2 (fun hvalid => hlen ((validBuffer_iff n buffer).1 hvalid bytes hbuffer)) p
  · obtain ⟨q, hq, hconstruct⟩ := construct_of_valid h1 h2 ((validBuffer_iff n buffer).2 hlen) p
    have hfits (bytes : List Byte) (hbuffer : buffer = some bytes) : bytes.length = q.memSize.val := by
      have hbytes := hlen bytes hbuffer
      omega
    have hread (k : Nat) (hk : (k : Int) < n) := State.read_mem_resetWith_loadBytes hfits (k := k) (by omega)
    have hsp : ((q.memSize.val - 1 : Nat) : Int) = n - 1 := by omega
    obtain ⟨m, hb, hm, hwf⟩ := State.loadBytes_spec (buffer.getD []) (State.resetWith q) 0
    rw [hm] at hconstruct hread
    exact ⟨_, hconstruct, hq, State.wf_of_mem_wf (hwf rfl), rfl, rfl, rfl, rfl, rfl, rfl, rfl, hsp, hread⟩

/-! ### `reset()` -/

/-- After `reset()` every byte reads 0 (R333). -/
theorem State.memRead8_resetVm (s : State) (x : Int) : s.resetVm.memRead8 x = 0 := rfl

/-- Settles O56: `reset()` replaces VMState by that of R334 at the same size, and touches nothing beside it. -/
theorem resetOperationClearsTheVM : Obligations.ResetOperationClearsTheVM :=
  fun s => ⟨rfl, rfl, rfl, rfl, rfl, rfl, rfl, rfl, rfl, s.memRead8_resetVm, rfl, rfl, rfl, rfl⟩

end Sys2Proof.Machine
end

section
/-! PROOF. Calls that throw (60_exceptions.md R304): each ends the step there, with InternalError and the message, after
the calls made up to it. -/

namespace Sys2Proof.Machine

section Thrown

variable {s : State} {sel cmd : Byte} {ctx : UnitContext} {u : UnitId} {m : String}

/-! ### The checks of a target (R250, R274) -/

theorem State.resolve_of_lookup_thrown (hctx : s.ctx = some ctx) (hlookup : ctx.lookup.get sel = .thrown m)
    (accept : UnitType → Bool) (cost : Nat) (k : State → UnitContext → UnitId → Result) :
    s.resolve sel accept cost k = (s.callAll [.lookup sel]).fail (.internalError m) cost := by
  simp only [State.resolve, hctx, hlookup, State.call_eq_callAll]

theorem State.resolve_of_access_thrown {accept : UnitType → Bool} (hctx : s.ctx = some ctx)
    (hlookup : ctx.lookup.get sel = .ok (some u)) (haccept : accept (ctx.units.get u).type = true)
    (haccess : (ctx.units.get u).canAccess = .thrown m) (cost : Nat) (k : State → UnitContext → UnitId → Result) :
    s.resolve sel accept cost k = (s.callAll (resolveCalls ctx sel u)).fail (.internalError m) cost := by
  simp only [State.resolve, hctx, hlookup, haccept, haccess, if_true, State.call_eq_callAll s, State.callAll_call,
    List.singleton_append]

theorem State.openMemIf_of_thrown (hmemIf : (ctx.units.get u).memIf = .thrown m) (cost : Nat)
    (k : State → MemInterface → Result) :
    s.openMemIf sel ctx u cost k = (s.call (.memIf u)).fail (.internalError m) cost := by
  rw [State.openMemIf, hmemIf]

/-! ### UNIT (R250 to R255) -/

theorem State.unitAccess_of_memIf_thrown (hctx : s.ctx = some ctx) (hreach : reaches ctx sel u)
    (hmemIf : (ctx.units.get u).memIf = .thrown m) (k : UnitId → State → MemInterface → Result) :
    s.unitAccess sel k =
      (s.callAll [.lookup sel, .canAccess ctx.self u, .memIf u]).fail (.internalError m) s.unitFailCost := by
  rw [State.unitAccess, State.resolve_of_reaches hctx hreach rfl, State.openMemIf_of_thrown hmemIf, State.callAll_call]
  rfl

theorem State.unitRead_of_thrown {mi : MemInterface} {ua : Word} (hctx : s.ctx = some ctx) (hreach : reaches ctx sel u)
    (hmemIf : (ctx.units.get u).memIf = .ok (some mi)) (hread : mi.read.get ua = .thrown m) :
    s.unitRead sel ua = (s.callAll [.lookup sel, .canAccess ctx.self u, .memIf u, .readMemory u ua]).fail
      (.internalError m) s.unitFailCost := by
  refine (State.unitAccess_of_interface hctx hreach hmemIf _).trans ?_
  simp only [hread, State.callAll_call]
  rfl

theorem State.unitWrite_of_thrown {mi : MemInterface} {a : Word} (hctx : s.ctx = some ctx) (hreach : reaches ctx sel u)
    (hmemIf : (ctx.units.get u).memIf = .ok (some mi)) (hwrite : mi.write.get (a, loByte s.a) = .thrown m) :
    s.unitWrite sel a =
      (s.callAll [.lookup sel, .canAccess ctx.self u, .memIf u, .writeMemory u a (loByte s.a)]).fail
        (.internalError m) s.unitFailCost := by
  refine (State.unitAccess_of_interface hctx hreach hmemIf _).trans ?_
  simp only [State.callAll_a, hwrite, State.callAll_call]
  rfl

/-! ### ENERGY and ASSEMBLE (R273 to R277) -/

theorem execEnergy_of_thrown {sub : Byte} (hctx : s.ctx = some ctx) (henergy : ctx.energy.get sub = .thrown m) :
    exec (.energy sub) s = (s.callAll [.energy ctx.self sub]).fail (.internalError m) 1 := by
  simp only [exec, execEnergy, hctx, henergy, State.failCost_eq, State.call_eq_callAll]

/-- The command byte is that of Start, Stop or Query, or a wrong one (R274). -/
theorem assembleCommand_cases (cmd : Byte) : cmd = 0 ∨ cmd = 1 ∨ cmd = 2 ∨ 2 < cmd.toNat := by
  bv_omega

/-- The device is called by all three commands (R304, log 9). -/
theorem execAssemble_of_assembler_thrown (hctx : s.ctx = some ctx) (hreach : reachesAssembler ctx sel u)
    (hasm : (ctx.units.get u).assembler = .thrown m) (hcmd : cmd.toNat ≤ 2) :
    ∃ ks, exec (.assemble sel cmd) s = (s.callAll ks).fail (.internalError m) 1 := by
  rw [execAssemble_of_reaches hctx hreach]
  obtain rfl | rfl | rfl | hgt := assembleCommand_cases cmd
  · rw [State.assembleCommand_zero, State.assembleStart, hasm, State.failCost_eq]
    exact ⟨_, congrArg (State.fail · _ _) (State.callAll_call s _ _)⟩
  · rw [State.assembleCommand_one, State.assembleStop, hasm, State.failCost_eq]
    exact ⟨_, congrArg (State.fail · _ _) (State.callAll_call s _ _)⟩
  · rw [State.assembleCommand_two, State.assembleQuery, hasm, State.failCost_eq]
    exact ⟨_, congrArg (State.fail · _ _) (State.callAll_call s _ _)⟩
  · omega

theorem execAssemble_start_of_memIf_thrown {idle : Assembler} (hctx : s.ctx = some ctx)
    (hreach : reachesAssembler ctx sel u) (hasm : (ctx.units.get u).assembler = .ok idle)
    (hidle : idle.isAssembling = false) (hmemIf : (ctx.units.get u).memIf = .thrown m) :
    exec (.assemble sel 0) s = (s.callAll (startCalls ctx sel u)).fail (.internalError m) 1 := by
  rw [execAssemble_of_reaches hctx hreach, State.assembleCommand_zero]
  simp only [State.assembleStart, hasm, hidle, Bool.false_eq_true, if_false, State.openMemIf_of_thrown hmemIf,
    State.callAll_call, State.failCost_eq]

theorem execAssemble_start_of_thrown {idle : Assembler} {mi : MemInterface} (hctx : s.ctx = some ctx)
    (hreach : reachesAssembler ctx sel u) (hasm : (ctx.units.get u).assembler = .ok idle)
    (hidle : idle.isAssembling = false) (hmemIf : (ctx.units.get u).memIf = .ok (some mi))
    (hstart : (ctx.units.get u).start = .thrown m) :
    exec (.assemble sel 0) s = (s.callAll (startCalls ctx sel u)).fail (.internalError m) 1 := by
  rw [execAssemble_of_reaches hctx hreach, State.assembleCommand_zero]
  simp only [State.assembleStart, hasm, hidle, Bool.false_eq_true, if_false, State.openMemIf_of_some hmemIf,
    State.callAll_call, hstart, State.failCost_eq]

/-- What ends as a failure after some calls is a failure in the terms of the statements. -/
theorem State.exists_failedWith {r : Result} {ks : List ExtCall} {e : ErrorCode} {c : Nat}
    (h : r = (s.callAll ks).fail e c) : ∃ t, r = .next t ∧ failedWith s t e c :=
  h ▸ s.callAll_fail_failedWith ks e c

end Thrown

/-- Settles O46: each call that throws ends the instruction as a failure after the calls before it. -/
theorem thrownCallsBecomeInternalError : Obligations.ThrownCallsBecomeInternalError := by
  intro s sel sub ua a dst ctx u mi idle m i bytes cost hctx hcost
  rw [← s.unitFailCost_eq] at hcost
  subst hcost
  refine ⟨fun hi => ?_, fun hreach hmemIf hread => ?_, fun hreach hmemIf hrow hwrite => ?_,
    fun hscan => State.exists_failedWith (execScan_of_thrown hctx hscan dst),
    fun henergy => State.exists_failedWith (execEnergy_of_thrown hctx henergy), fun hlookup => ?_,
    fun hlookup htype haccess => ?_, fun hreach hasm hcmd => ?_, fun hreach hasm hidle => ⟨fun hmemIf => ?_,
      fun hmemIf hstart => ?_⟩⟩
  · obtain ⟨k, hexec⟩ := exec_eq_unitAccess hi s
    exact ⟨fun hlookup => State.exists_failedWith (hexec.trans (State.resolve_of_lookup_thrown hctx hlookup _ _ _)),
      fun hlookup haccess =>
        State.exists_failedWith (hexec.trans (State.resolve_of_access_thrown hctx hlookup rfl haccess _ _)),
      fun hreach hmemIf =>
        State.exists_failedWith (hexec.trans (State.unitAccess_of_memIf_thrown hctx hreach hmemIf k))⟩
  · exact State.exists_failedWith (State.unitRead_of_thrown hctx hreach hmemIf hread)
  · obtain ⟨-, hexec⟩ := encode_exec_of_mem_unitWriteRows hrow .byte1
    exact State.exists_failedWith (hexec.trans (State.unitWrite_of_thrown hctx hreach hmemIf hwrite))
  · exact State.exists_failedWith
      ((execAssemble_eq_resolve s sel sub).trans (State.resolve_of_lookup_thrown hctx hlookup _ _ _))
  · exact State.exists_failedWith ((execAssemble_eq_resolve s sel sub).trans
      (State.resolve_of_access_thrown hctx hlookup (isAssemblerType_eq_true htype) haccess _ _))
  · obtain ⟨ks, hexec⟩ := execAssemble_of_assembler_thrown hctx hreach hasm hcmd
    exact State.exists_failedWith hexec
  · exact State.exists_failedWith (execAssemble_start_of_memIf_thrown hctx hreach hasm hidle hmemIf)
  · exact State.exists_failedWith (execAssemble_start_of_thrown hctx hreach hasm hidle hmemIf hstart)

end Sys2Proof.Machine
end

section
/-! PROOF. The ends of each instruction (60_exceptions.md R302, R303, R306; 70_reset_and_hazards.md R346): what a success
costs, and what a failure costs, by which row of R302's table it is raised and from which cause. -/

namespace Sys2Proof.Machine

/-! ### The end of an instruction -/

/-- What a success of `i` from `s` may cost (R346): the entry of the table; taken or not, for a conditional jump; by its
length, for SCANM. -/
inductive SuccessCost (i : Instr) (s : State) : Nat → Prop
  | fixed {c : Nat} (h : tableCost i = some c) : SuccessCost i s c
  | jump {c : Nat} (h : tableCost i = none) (hi : readsFlags i = true) (hc : c = 3 ∨ c = 1) : SuccessCost i s c
  | scanm (h : tableCost i = none) (hi : readsFlags i = false) : SuccessCost i s (5 + s.scanmLength)

/-- What a failure of `i` costs: more than 1 cycle in the category UNIT alone (R303, log 13). -/
def State.failureCost (s : State) (i : Instr) : Nat :=
  match i.category with
  | .unit => s.unitFailCost
  | _ => 1

/-- `r` is how `i` executed from `s` may end: as a success at the table's cost, or as a failure that R302 names for `i`,
from its cause. -/
inductive ExecEnds (i : Instr) (s : State) : Result → Prop
  | ok {u : State} {c : Nat} (hc : SuccessCost i s c) : ExecEnds i s (u.ok c)
  | fail {u : State} {e : ErrorCode} (hmay : mayRaise i e = true) (hcause : causeHolds i s e) :
    ExecEnds i s (u.fail e (s.failureCost i))

theorem State.failureCost_of_unit {i : Instr} (h : i.category = .unit) (s : State) :
    s.failureCost i = s.unitFailCost := by
  rw [State.failureCost, h]

/-- A failure costs 1 cycle, or 3 under the alternative of R303 in the category UNIT. -/
theorem State.failureCost_cases (s : State) (i : Instr) :
    s.failureCost i = 1 ∨ (s.failureCost i = 3 ∧ s.params.failCycles = .threeForUnit ∧ i.category = .unit) := by
  by_cases hcat : i.category = .unit
  · rw [State.failureCost_of_unit hcat, State.unitFailCost_eq]
    split_ifs with hfail
    · exact .inr ⟨rfl, hfail, hcat⟩
    · exact .inl rfl
  · refine .inl ?_
    rw [State.failureCost]
    split
    next h => exact absurd h hcat
    next => rfl

/-! ### The checks of a target (R250, R274) -/

section Checks

variable {i : Instr} {s : State} {sel : Byte}

/-- An instruction that names a selector needs a context to look it up in. -/
theorem needsContext_of_selectorOf (h : selectorOf i = some sel) : needsContext i = true := by
  cases i with
  | unitMemRead | unitMemWrite | unitMemWriteDyn | assemble => rfl
  | _ => cases h

/-- A resolution of a target that fails does so from one of R302's causes; what is left is to go on with a unit that the
selector reaches. -/
theorem State.resolve_execEnds (hsel : selectorOf i = some sel) {accept : UnitType → Bool}
    (hrefuse : ∀ t, accept t = false → t ≠ .assembler ∧ ∃ cmd, i = .assemble sel cmd)
    {k : State → UnitContext → UnitId → Result}
    (hk : ∀ ctx u, s.ctx = some ctx → reaches ctx sel u → accept (ctx.units.get u).type = true →
      ExecEnds i s (s.resolve sel accept (s.failureCost i) k)) :
    ExecEnds i s (s.resolve sel accept (s.failureCost i) k) := by
  have hneeds := needsContext_of_selectorOf hsel
  cases hctx : s.ctx with
  | none =>
    rw [State.resolve_of_ctx_eq_none hctx]
    exact .fail hneeds ⟨hneeds, hctx⟩
  | some ctx =>
    cases hlookup : ctx.lookup.get sel with
    | thrown m =>
      rw [State.resolve_of_lookup_thrown hctx hlookup]
      exact .fail hneeds ⟨ctx, hctx, .inl ⟨sel, hsel, .inl hlookup⟩⟩
    | ok answer =>
      cases answer with
      | none =>
        rw [State.resolve_of_lookup_eq_none hctx hlookup]
        exact .fail (decide_eq_true hsel) ⟨hsel, ctx, hctx, .inl hlookup⟩
      | some u =>
        cases haccept : accept (ctx.units.get u).type with
        | false =>
          obtain ⟨htype, cmd, hi⟩ := hrefuse _ haccept
          rw [State.resolve_of_not_accepted hctx hlookup haccept]
          exact .fail (decide_eq_true hsel) ⟨hsel, ctx, hctx, .inr ⟨u, cmd, hi, hlookup, htype⟩⟩
        | true =>
          cases haccess : (ctx.units.get u).canAccess with
          | thrown m =>
            rw [State.resolve_of_access_thrown hctx hlookup haccept haccess]
            exact .fail hneeds ⟨ctx, hctx, .inl ⟨sel, hsel, .inr ⟨u, hlookup, .inl haccess⟩⟩⟩
          | ok granted =>
            cases granted with
            | false =>
              rw [State.resolve_of_access_denied hctx hlookup haccept haccess]
              exact .fail (decide_eq_true hsel) ⟨hsel, ctx, u, hctx, hlookup, haccess⟩
            | true => exact hk ctx u hctx ⟨hlookup, haccess⟩ haccept

/-- The same of all the checks of a UNIT instruction (R250): what is left is to go on with an interface. -/
theorem State.unitAccess_execEnds (hsel : selectorOf i = some sel) (hcat : i.category = .unit)
    {k : UnitId → State → MemInterface → Result}
    (hk : ∀ ctx u mi, s.ctx = some ctx → reaches ctx sel u → (ctx.units.get u).memIf = .ok (some mi) →
      ExecEnds i s (s.unitAccess sel k)) :
    ExecEnds i s (s.unitAccess sel k) := by
  have hcost := State.failureCost_of_unit hcat s
  rw [State.unitAccess, ← hcost]
  refine State.resolve_execEnds hsel (fun _ h => by cases h) fun ctx u hctx hreach _ => ?_
  have ⟨hlookup, _⟩ := hreach
  rw [hcost, ← State.unitAccess]
  cases hmemIf : (ctx.units.get u).memIf with
  | thrown m =>
    rw [State.unitAccess_of_memIf_thrown hctx hreach hmemIf, ← hcost]
    exact .fail (needsContext_of_selectorOf hsel)
      ⟨ctx, hctx, .inl ⟨sel, hsel, .inr ⟨u, hlookup, .inr (.inl hmemIf)⟩⟩⟩
  | ok answer =>
    cases answer with
    | none =>
      rw [State.unitAccess_of_no_interface hctx hreach hmemIf, ← hcost]
      exact .fail (by simp [mayRaise, hsel, hcat]) ⟨hsel, ctx, u, hctx, hreach, hmemIf⟩
    | some mi => exact hk ctx u mi hctx hreach hmemIf

end Checks

/-! ### UNIT -/

theorem State.unitRead_execEnds (s : State) (sel : Byte) (ua : Word) :
    ExecEnds (.unitMemRead sel ua) s (s.unitRead sel ua) := by
  refine State.unitAccess_execEnds rfl rfl fun ctx u mi hctx hreach hmemIf => ?_
  have ⟨hlookup, _⟩ := hreach
  change ExecEnds _ s (s.unitRead sel ua)
  cases hread : mi.read.get ua with
  | thrown m =>
    rw [State.unitRead_of_thrown hctx hreach hmemIf hread]
    exact .fail rfl
      ⟨ctx, hctx, .inl ⟨sel, rfl, .inr ⟨u, hlookup, .inr (.inr (.inl ⟨mi, hmemIf, .inl ⟨ua, rfl, hread⟩⟩))⟩⟩⟩
  | ok answer =>
    cases answer with
    | none =>
      rw [State.unitRead_of_rejected hctx hreach hmemIf hread]
      exact .fail (by simp [mayRaise]) ⟨ctx, u, mi, hctx, hreach, hmemIf, .inl ⟨rfl, hread⟩⟩
    | some v =>
      rw [State.unitRead_of_answered hctx hreach hmemIf hread]
      exact .ok (.fixed rfl)

/-- The two writes are one operation, whose address is the operand or B (R254, R255). -/
theorem State.unitWrite_execEnds {i : Instr} {s : State} {sel : Byte} {a : Word}
    (hi : i = .unitMemWrite sel a ∨ i = .unitMemWriteDyn sel ∧ a = s.b) : ExecEnds i s (s.unitWrite sel a) := by
  obtain ⟨hsel, hcat, hcost, hmay⟩ : selectorOf i = some sel ∧ i.category = .unit ∧ tableCost i = some 3 ∧
      mayRaise i (.memoryWriteRejected sel a) = true := by
    obtain rfl | ⟨rfl, -⟩ := hi <;> exact ⟨rfl, rfl, rfl, by simp [mayRaise]⟩
  refine State.unitAccess_execEnds hsel hcat fun ctx u mi hctx hreach hmemIf => ?_
  have ⟨hlookup, _⟩ := hreach
  change ExecEnds _ s (s.unitWrite sel a)
  cases hwrite : mi.write.get (a, loByte s.a) with
  | thrown m =>
    rw [State.unitWrite_of_thrown hctx hreach hmemIf hwrite, ← State.failureCost_of_unit hcat]
    exact .fail (needsContext_of_selectorOf hsel)
      ⟨ctx, hctx, .inl ⟨sel, hsel, .inr ⟨u, hlookup, .inr (.inr (.inl ⟨mi, hmemIf, .inr ⟨a, hi, hwrite⟩⟩))⟩⟩⟩
  | ok accepted =>
    cases accepted with
    | false =>
      rw [State.unitWrite_of_rejected hctx hreach hmemIf hwrite, ← State.failureCost_of_unit hcat]
      exact .fail hmay ⟨ctx, u, mi, hctx, hreach, hmemIf, .inl ⟨hi, hwrite⟩⟩
    | true =>
      rw [State.unitWrite_of_accepted hctx hreach hmemIf hwrite]
      exact .ok (.fixed hcost)

/-! ### SPECIAL -/

theorem execScan_execEnds (dst : Word) (s : State) : ExecEnds (.scan dst) s (exec (.scan dst) s) := by
  cases hctx : s.ctx with
  | none =>
    rw [execScan_of_ctx_eq_none hctx]
    exact .fail rfl ⟨rfl, hctx⟩
  | some ctx =>
    cases hscan : ctx.scan with
    | thrown m =>
      rw [execScan_of_thrown hctx hscan]
      exact .fail rfl ⟨ctx, hctx, .inr (.inr ⟨dst, rfl, hscan⟩)⟩
    | ok bs =>
      rw [execScan_of_answered hctx hscan]
      exact .ok (.fixed rfl)

theorem execEnergy_execEnds (sub : Byte) (s : State) : ExecEnds (.energy sub) s (exec (.energy sub) s) := by
  cases hctx : s.ctx with
  | none =>
    rw [execEnergy_of_ctx_eq_none hctx]
    exact .fail rfl ⟨rfl, hctx⟩
  | some ctx =>
    cases henergy : ctx.energy.get sub with
    | thrown m =>
      rw [execEnergy_of_thrown hctx henergy]
      exact .fail rfl ⟨ctx, hctx, .inr (.inl ⟨sub, rfl, henergy⟩)⟩
    | ok res =>
      cases hres : res.success with
      | false =>
        rw [execEnergy_of_failure hctx henergy hres]
        exact .fail rfl ⟨sub, ctx, res, rfl, hctx, henergy, hres, rfl⟩
      | true =>
        rw [execEnergy_of_success hctx henergy hres]
        exact .ok (.fixed rfl)

section Assemble

variable {s : State} {sel : Byte} {ctx : UnitContext} {u : UnitId} {m : Assembler}

/-- A Start that meets an Assembler's state ends by whether it is producing, then by its interface, then by the outcome
(R275). -/
theorem execAssemble_start_execEnds (hctx : s.ctx = some ctx) (hreach : reachesAssembler ctx sel u)
    (hasm : (ctx.units.get u).assembler = .ok m) :
    ExecEnds (.assemble sel 0) s (exec (.assemble sel 0) s) := by
  have ⟨hunit, _⟩ := hreach
  have ⟨hlookup, _⟩ := hunit
  cases hbusy : m.isAssembling with
  | true =>
    rw [execAssemble_start_of_busy hctx hreach hasm hbusy]
    exact .ok (.fixed rfl)
  | false =>
    cases hmemIf : (ctx.units.get u).memIf with
    | thrown msg =>
      rw [execAssemble_start_of_memIf_thrown hctx hreach hasm hbusy hmemIf]
      exact .fail rfl ⟨ctx, hctx, .inl ⟨sel, rfl, .inr ⟨u, hlookup, .inr (.inl hmemIf)⟩⟩⟩
    | ok answer =>
      cases answer with
      | none =>
        rw [execAssemble_start_of_no_interface hctx hreach hasm hbusy hmemIf]
        exact .fail (by simp [mayRaise, selectorOf]) ⟨rfl, ctx, u, hctx, hunit, hmemIf⟩
      | some mi =>
        cases hstart : (ctx.units.get u).start with
        | thrown msg =>
          rw [execAssemble_start_of_thrown hctx hreach hasm hbusy hmemIf hstart]
          exact .fail rfl
            ⟨ctx, hctx, .inl ⟨sel, rfl, .inr ⟨u, hlookup, .inr (.inr (.inr (.inr ⟨rfl, hstart⟩)))⟩⟩⟩
        | ok outcome =>
          rw [execAssemble_start_of_interface hctx hreach hasm hbusy hmemIf hstart]
          cases outcome with
          | started spec => exact .ok (.fixed rfl)
          | readRejected a =>
            exact .fail (by simp [mayRaise]) ⟨ctx, u, mi, hctx, hunit, hmemIf, .inr ⟨rfl, hstart⟩⟩
          | writeRejected a =>
            exact .fail (by simp [mayRaise]) ⟨ctx, u, mi, hctx, hunit, hmemIf, .inr ⟨rfl, hstart⟩⟩

/-- Once it has reached an Assembler, ASSEMBLE ends by its command, and by the device's answer (R274). -/
theorem execAssemble_execEnds_of_reaches (hctx : s.ctx = some ctx) (hreach : reachesAssembler ctx sel u)
    (cmd : Byte) : ExecEnds (.assemble sel cmd) s (exec (.assemble sel cmd) s) := by
  by_cases hcmd : 2 < cmd.toNat
  · rw [execAssemble_of_reaches hctx hreach, State.assembleCommand_of_gt_two hcmd]
    exact .fail (by simp [mayRaise, hcmd]) ⟨sel, ctx, u, rfl, hctx, hreach, hcmd⟩
  · cases hasm : (ctx.units.get u).assembler with
    | thrown msg =>
      obtain ⟨ks, hexec⟩ := execAssemble_of_assembler_thrown hctx hreach hasm (not_lt.1 hcmd)
      have ⟨⟨hlookup, _⟩, _⟩ := hreach
      rw [hexec]
      exact .fail rfl
        ⟨ctx, hctx, .inl ⟨sel, rfl, .inr ⟨u, hlookup, .inr (.inr (.inr (.inl ⟨cmd, rfl, hasm⟩)))⟩⟩⟩
    | ok m =>
      obtain rfl | rfl | rfl | hgt := assembleCommand_cases cmd
      · exact execAssemble_start_execEnds hctx hreach hasm
      · rw [execAssemble_stop hctx hreach hasm]
        exact .ok (.fixed rfl)
      · rw [execAssemble_query hctx hreach hasm]
        exact .ok (.fixed rfl)
      · exact absurd hgt hcmd

end Assemble

theorem execAssemble_execEnds (sel cmd : Byte) (s : State) :
    ExecEnds (.assemble sel cmd) s (exec (.assemble sel cmd) s) := by
  have hrefuse (t : UnitType) (ht : isAssemblerType t = false) :
      t ≠ .assembler ∧ ∃ cmd', Instr.assemble sel cmd = .assemble sel cmd' :=
    ⟨of_decide_eq_false ht, cmd, rfl⟩
  rw [execAssemble_eq_resolve]
  refine State.resolve_execEnds rfl hrefuse fun ctx u hctx hreach htype => ?_
  have hassembler : reachesAssembler ctx sel u := ⟨hreach, of_decide_eq_true htype⟩
  exact execAssemble_eq_resolve s sel cmd ▸ execAssemble_execEnds_of_reaches hctx hassembler cmd

/-! ### Every instruction -/

theorem execDivAB_execEnds (s : State) : ExecEnds .divAB s (exec .divAB s) := by
  by_cases hb : s.b = 0
  · rw [execDivAB_of_eq_zero hb]
    exact .fail rfl ⟨rfl, hb⟩
  · rw [execDivAB_of_ne_zero hb]
    exact .ok (.fixed rfl)

theorem State.jumpIf_execEnds {i : Instr} {s : State} (h : tableCost i = none) (hi : readsFlags i = true) (cond : Bool)
    (off : Word) : ExecEnds i s (s.jumpIf cond off) := by
  rw [State.jumpIf_eq]
  split
  · exact .ok (.jump h hi (.inl rfl))
  · exact .ok (.jump h hi (.inr rfl))

/-- Every instruction ends so. Those that cannot fail and whose cost is fixed end in a success by their meaning. -/
theorem exec_execEnds (i : Instr) (s : State) : ExecEnds i s (exec i s) := by
  cases i with
  | divAB => exact execDivAB_execEnds s
  | jz | jnz | jc | jnc | jg | jge | jl | jle | jul | juge => exact State.jumpIf_execEnds rfl rfl _ _
  | unitMemRead sel ua => exact s.unitRead_execEnds sel ua
  | unitMemWrite sel ua => exact State.unitWrite_execEnds (.inl rfl)
  | unitMemWriteDyn sel => exact State.unitWrite_execEnds (.inr ⟨rfl, rfl⟩)
  | scan dst => exact execScan_execEnds dst s
  | scanm => exact .ok (.scanm rfl rfl)
  | energy sub => exact execEnergy_execEnds sub s
  | assemble sel cmd => exact execAssemble_execEnds sel cmd s
  | _ => exact .ok (.fixed rfl)

/-! ### The causes of failures (R302) -/

theorem ExecEnds.cause_of_failure {i : Instr} {s t : State} {r : Result} {e : ErrorCode} {c : Nat}
    (h : ExecEnds i s r) (ht : r = .next t) (hres : t.result = some (.failure e c)) :
    mayRaise i e = true ∧ causeHolds i s e := by
  cases h with
  | ok => cases ht; cases hres
  | fail hmay hcause =>
    cases ht
    cases hres
    exact ⟨hmay, hcause⟩

/-- An opcode that the map in force assigns decodes to an instruction (R72). -/
theorem State.exists_decodeAt_instr_of_assigns {s : State} {addr : Nat}
    (h : s.params.opcodeMap.assigns (s.memRead8 addr) = true) : ∃ i, (s.decodeAt addr).instr = some i := by
  obtain ⟨rest, hins⟩ := s.decodeAt_ins_cons addr
  refine Option.ne_none_iff_exists'.1 fun hnone => ?_
  have hunassigned := decodeIns_eq_none.1 hnone
  rw [← State.decodeAt_ins, hins, insAt_cons_zero, h] at hunassigned
  cases hunassigned

/-- Settles O10: the end of an instruction has the cause of its failure; only a step that decodes nothing fails with
UndefinedInstruction. -/
theorem failureCodesComeFromTheirCauses : Obligations.FailureCodesComeFromTheirCauses := by
  refine ⟨fun i s t e c hexec hres => (exec_execEnds i s).cause_of_failure hexec hres, fun s t op c hstep hres => ?_⟩
  cases hassigns : s.params.opcodeMap.assigns (s.memRead8 s.pc) with
  | false =>
    rw [step_of_not_assigns hassigns] at hstep
    cases hstep
    cases hres
    exact ⟨rfl, hassigns⟩
  | true =>
    obtain ⟨i, hi⟩ := State.exists_decodeAt_instr_of_assigns hassigns
    rw [step_of_decodeAt hi] at hstep
    obtain ⟨hmay, -⟩ := (exec_execEnds i _).cause_of_failure hstep hres
    cases hmay

/-! ### The costs (R303, R346) -/

theorem ExecEnds.cost_of_success {i : Instr} {s t : State} {r : Result} {c : Nat} (h : ExecEnds i s r)
    (ht : r = .next t) (hres : t.result = some (.success c)) : SuccessCost i s c := by
  cases h with
  | ok hc =>
    cases ht
    cases hres
    exact hc
  | fail => cases ht; cases hres

theorem ExecEnds.cost_of_failure {i : Instr} {s t : State} {r : Result} {e : ErrorCode} {c : Nat} (h : ExecEnds i s r)
    (ht : r = .next t) (hres : t.result = some (.failure e c)) : c = s.failureCost i := by
  cases h with
  | ok => cases ht; cases hres
  | fail =>
    cases ht
    cases hres
    rfl

/-- SCANM copies at least one byte and at most 256 (R272). -/
theorem State.scanmLength_bounds (s : State) : 0 < s.scanmLength ∧ s.scanmLength ≤ 256 := by
  rw [State.scanmLength_eq]
  split_ifs <;> omega

/-- Settles O19: the ends of the instruction have the costs. -/
theorem cyclesFollowTheTable : Obligations.CyclesFollowTheTable := by
  intro i s t c hexec
  refine ⟨fun hres => ?_, fun e hres => ?_⟩
  · obtain ⟨hpos, hle⟩ := s.scanmLength_bounds
    cases (exec_execEnds i s).cost_of_success hexec hres with
    | fixed h => rw [h]
    | jump h hi hc =>
      rw [h]
      exact .inl ⟨hi, hc⟩
    | scanm h hi =>
      rw [h]
      exact .inr ⟨hi, hpos, hle, rfl⟩
  · obtain rfl := (exec_execEnds i s).cost_of_failure hexec hres
    exact s.failureCost_cases i

end Sys2Proof.Machine
end

section
/-! PROOF. The run loop (70_reset_and_hazards.md R340 to R343): what one step costs at least and at most, what a property
that each turn keeps gives for a whole tick, and from both the statements. -/

namespace Sys2Proof.Machine

/-! ### The cost of one step -/

/-- No entry of R346's table is above 5. -/
theorem tableCost_le {i : Instr} {n : Nat} (h : tableCost i = some n) : n ≤ 5 := by
  cases i with
  | jz | jnz | jc | jnc | jg | jge | jl | jle | jul | juge | scanm => cases h
  | _ =>
    cases h
    decide

/-- The longest SCANM is the costliest success: 5 cycles and one for each of its 256 bytes (R341, R346). -/
theorem SuccessCost.le {i : Instr} {s : State} {c : Nat} (h : SuccessCost i s c) : c ≤ 261 := by
  cases h with
  | fixed h => exact (tableCost_le h).trans (by decide)
  | jump _ _ hc => omega
  | scanm =>
    obtain ⟨-, hle⟩ := s.scanmLength_bounds
    omega

theorem State.failureCost_le (s : State) (i : Instr) : s.failureCost i ≤ 261 := by
  obtain h | ⟨h, -⟩ := s.failureCost_cases i <;> omega

/-- What a step that runs an instruction reports as its cost. -/
theorem ExecEnds.cost_le {i : Instr} {s t : State} {r : Result} {c : Nat} (h : ExecEnds i s r) (ht : r = .next t)
    (hres : t.result = some (.success c) ∨ ∃ e, t.result = some (.failure e c)) : c ≤ 261 := by
  obtain hres | ⟨e, hres⟩ := hres
  · exact (h.cost_of_success ht hres).le
  · exact h.cost_of_failure ht hres ▸ s.failureCost_le i

/-- A step reports a cost of at most 261 cycles; one that meets an undefined opcode costs 1 (R72). -/
theorem step_cost_le {s t : State} {c : Nat} (h : step s = .next t)
    (hres : t.result = some (.success c) ∨ ∃ e, t.result = some (.failure e c)) : c ≤ 261 := by
  cases hassigns : s.params.opcodeMap.assigns (s.memRead8 s.pc) with
  | false =>
    rw [step_of_not_assigns hassigns] at h
    cases h
    obtain hres | ⟨e, hres⟩ := hres <;> cases hres
    decide
  | true =>
    obtain ⟨i, hi⟩ := State.exists_decodeAt_instr_of_assigns hassigns
    rw [step_of_decodeAt hi] at h
    exact (exec_execEnds i s.beginStep).cost_le h hres

/-- Everything the run loop needs of a step: it costs from 1 to 261 cycles, and only a failure halts. -/
theorem step_turn {s t : State} (h : step s = .next t) :
    s.used < t.used ∧ t.used ≤ s.used + 261 ∧
      (t.halted = s.halted ∨ ∃ e c, t.result = some (.failure e c)) := by
  obtain ⟨t', ht', hend⟩ := stepNeverStops s
  obtain rfl : t = t' := Host.Outcome.next.inj (h.symm.trans ht')
  obtain ⟨c, hres, hpos, hused, hhalted⟩ | ⟨e, c, hres, hpos, hused, -⟩ := hend
  · have hle := step_cost_le h (.inl hres)
    exact ⟨by omega, by omega, .inl hhalted⟩
  · have hle := step_cost_le h (.inr ⟨e, hres⟩)
    exact ⟨by omega, by omega, .inr ⟨e, c, hres⟩⟩

/-! ### The loop -/

section Loop

variable {maxCycles : Int} {s t u : State}

theorem State.keepsRunning_iff : s.keepsRunning maxCycles = true ↔ (s.used : Int) < maxCycles ∧ s.halted = false := by
  simp [State.keepsRunning]

theorem State.runLoop_of_not_keepsRunning (h : ¬ s.keepsRunning maxCycles = true) (fuel : Nat) :
    State.runLoop maxCycles fuel s = .next s := by
  cases fuel with
  | zero => rfl
  | succ fuel => rw [State.runLoop, if_neg h]

theorem State.runLoop_of_step (h : s.keepsRunning maxCycles = true) (hstep : step s = .next u) (fuel : Nat) :
    State.runLoop maxCycles (fuel + 1) s = State.runLoop maxCycles fuel u := by
  rw [State.runLoop, if_pos h, hstep]

/-- The loop always ends in a next state. It stops by its own test, not by its bound, where the bound allows a turn for
each cycle left (R343). -/
theorem State.runLoop_next (maxCycles : Int) (fuel : Nat) : ∀ s : State, ∃ t,
    State.runLoop maxCycles fuel s = .next t ∧
      (maxCycles ≤ s.used + fuel → ¬ t.keepsRunning maxCycles = true) := by
  induction fuel with
  | zero =>
    refine fun s => ⟨s, rfl, fun hfuel hruns => ?_⟩
    obtain ⟨hlt, -⟩ := State.keepsRunning_iff.1 hruns
    omega
  | succ fuel ih =>
    intro s
    by_cases hruns : s.keepsRunning maxCycles = true
    · obtain ⟨u, hu, -⟩ := stepNeverStops s
      obtain ⟨hused, -⟩ := step_turn hu
      obtain ⟨t, ht, hstops⟩ := ih u
      exact ⟨t, (State.runLoop_of_step hruns hu fuel).trans ht, fun hfuel => hstops (by push_cast at hfuel; omega)⟩
    · exact ⟨s, State.runLoop_of_not_keepsRunning hruns _, fun _ => hruns⟩

/-- What every turn of the loop keeps holds when it ends. -/
theorem State.runLoop_invariant {P : State → Prop}
    (hturn : ∀ s t, s.keepsRunning maxCycles = true → P s → step s = .next t → P t) {fuel : Nat} (hs : P s)
    (h : State.runLoop maxCycles fuel s = .next t) : P t := by
  induction fuel generalizing s with
  | zero =>
    cases h
    exact hs
  | succ fuel ih =>
    by_cases hruns : s.keepsRunning maxCycles = true
    · obtain ⟨u, hu, -⟩ := stepNeverStops s
      rw [State.runLoop_of_step hruns hu] at h
      exact ih (hturn s u hruns hs hu) h
    · rw [State.runLoop_of_not_keepsRunning hruns] at h
      cases h
      exact hs

end Loop

/-! ### The statements -/

/-- Settles O57: a tick begins with as many turns allowed as cycles, not halted, and only a failure halts it. -/
theorem runEndsByBudgetOrFailure : Obligations.RunEndsByBudgetOrFailure := by
  intro s maxCycles
  obtain ⟨t, ht, hstops⟩ := State.runLoop_next maxCycles maxCycles.toNat s.beginTick
  have hstopped : ¬ ((t.used : Int) < maxCycles ∧ t.halted = false) :=
    mt State.keepsRunning_iff.2 (hstops (by rw [State.beginTick_used]; omega))
  refine ⟨t, ht, ?_, ?_, fun hmax => ?_⟩
  · rw [not_and, Bool.not_eq_false] at hstopped
    exact (le_or_gt maxCycles t.used).imp_right hstopped
  · refine State.runLoop_invariant (P := fun w => w.halted = true → ∃ e c, w.result = some (.failure e c))
      (fun v w hruns _ hstep hhalted => ?_) (s := s.beginTick) (fun h => by cases h) ht
    obtain ⟨-, -, hsame | hfailed⟩ := step_turn hstep
    · obtain ⟨-, hrunning⟩ := State.keepsRunning_iff.1 hruns
      rw [hsame, hrunning] at hhalted
      cases hhalted
    · exact hfailed
  · rw [Int.toNat_of_nonpos hmax] at ht
    cases ht
    rfl

/-- Settles O58: the first turn uses a cycle, which no later one gives back; the last begins below the budget and costs at
most 261. -/
theorem runOvershootsByAtMost260 : Obligations.RunOvershootsByAtMost260 := by
  intro s t maxCycles hpos hrun
  refine ⟨?_, ?_⟩
  · have hruns : s.beginTick.keepsRunning maxCycles = true := State.keepsRunning_iff.2 ⟨hpos, rfl⟩
    obtain ⟨fuel, hfuel⟩ : ∃ fuel, maxCycles.toNat = fuel + 1 := ⟨maxCycles.toNat - 1, by omega⟩
    obtain ⟨u, hu, -⟩ := stepNeverStops s.beginTick
    rw [State.run, hfuel, State.runLoop_of_step hruns hu] at hrun
    obtain ⟨hfirst, -⟩ := step_turn hu
    refine State.runLoop_invariant (P := fun w => 0 < w.used) (fun v w _ _ hstep => ?_) (Nat.zero_lt_of_lt hfirst) hrun
    obtain ⟨hmore, -⟩ := step_turn hstep
    exact Nat.zero_lt_of_lt hmore
  · refine State.runLoop_invariant (P := fun w => (w.used : Int) ≤ maxCycles + 260) (fun v w hruns _ hstep => ?_)
      (s := s.beginTick) (by rw [State.beginTick_used]; omega) hrun
    obtain ⟨hbelow, -⟩ := State.keepsRunning_iff.1 hruns
    obtain ⟨-, hle, -⟩ := step_turn hstep
    omega

end Sys2Proof.Machine
end
